-- ==== Sys2Proof/Word.lean ====
section
/-! DEFINITION. The plain data the codec moves: bytes, the 32-bit word, the fixed byte groups of the
operands, the 9-byte frame, and a request as it stands at the port (spec/00_scope.md section 4,
spec/30_encoding.md R42, R43, R46). Types only; every function over them stands in a later file. -/

namespace Sys2Proof

/-- A byte: 8 bits, an unsigned value 0 to 255 (00_scope.md section 4, Bytes). -/
abbrev Byte := BitVec 8

/-- A 32-bit pattern: `VALUE`, `CODE` and `RVAL`, bit 31 the most significant (20_memory.md R28). -/
abbrev Word := BitVec 32

/-- Four bytes in index order: the lanes `D[0..3]`, or bytes 4 to 7 of a frame. -/
structure Bytes4 where
  d0 : Byte
  d1 : Byte
  d2 : Byte
  d3 : Byte
  deriving DecidableEq, Repr, Inhabited

/-- Eight bytes in index order: the operand `B[0..7]` of `CHECKSUM` (30_encoding.md R46). -/
structure Bytes8 where
  b0 : Byte
  b1 : Byte
  b2 : Byte
  b3 : Byte
  b4 : Byte
  b5 : Byte
  b6 : Byte
  b7 : Byte
  deriving DecidableEq, Repr, Inhabited

/-- A frame: exactly nine bytes, `f0` at index 0 (20_memory.md R26, 30_encoding.md R52). -/
structure Frame where
  f0 : Byte
  f1 : Byte
  f2 : Byte
  f3 : Byte
  f4 : Byte
  f5 : Byte
  f6 : Byte
  f7 : Byte
  f8 : Byte
  deriving DecidableEq, Repr, Inhabited

/-- A request as the host presents it: the operation select `OP` and the operand lines
(30_encoding.md R43). 72 lines hold the widest operand, the frame of the unpack operations.
DESIGN CHOICE (log 7): which line carries which operand bit; see `encode`. -/
structure Request where
  op : BitVec 3
  lanes : BitVec 72
  deriving DecidableEq, Repr, Inhabited

end Sys2Proof
end

