-- ==== Sys2Proof/Syntax.lean ====
section
/-! DEFINITION. The six operations of the codec, one constructor per row of spec/opcode_table.json,
each carrying the operands that 30_encoding.md R46 lists for it, in the source's parameter order. -/

namespace Sys2Proof

/-- One operation request with its operands (30_encoding.md R43, R44, R46). Every operand is exactly as
wide as its port, so a value outside its range cannot be written here; a harness with wider integers
is `WideRequest` (WellFormed.lean). -/
inductive Instr where
  /-- `ENCODE cmd, addr, type, bank, value` (R62). -/
  | encode (cmd addr typ bank : Byte) (value : Word)
  /-- `CHECKSUM [b0, ..., b7]` (R63). -/
  | checksum (b : Bytes8)
  /-- `DECODE_VALUE len, [d0, d1, d2, d3]` (R76). -/
  | decodeValue (len : BitVec 4) (d : Bytes4)
  /-- `UNPACK_S [f0, ..., f8]` (R77). -/
  | unpackS (f : Frame)
  /-- `UNPACK_SV [f0, ..., f8]` (R78). -/
  | unpackSV (f : Frame)
  /-- `INTERPRET_STATUS code` (R91). -/
  | interpretStatus (code : Word)
  deriving DecidableEq, Repr

end Sys2Proof
end

