-- ==== Sys2Proof/Decode.lean ====
section
/-! DEFINITION. From the request at the port to the operation, and back. `OP` is decoded by the table
of 30_encoding.md R44; 6 and 7 are rejected by name (R47). The operands of the selected operation are
taken from the operand lines, concatenated in the order of R46 with the last operand in the lowest
lines. DESIGN CHOICE (log 7): that placement is the model's; the spec does not say "how operands share
physical wires" (R43). -/

namespace Sys2Proof

/-- Why a request is no operation of the block. -/
inductive DecodeError where
  /-- `OP` is 6 or 7 (30_encoding.md R47). -/
  | reservedOp (op : BitVec 3)
  deriving DecidableEq, Repr

/-- The 72-bit view of a frame, byte 0 in bits 71 to 64 (30_encoding.md R42). -/
def Frame.view72 (f : Frame) : BitVec 72 :=
  f.f0 ++ f.f1 ++ f.f2 ++ f.f3 ++ f.f4 ++ f.f5 ++ f.f6 ++ f.f7 ++ f.f8

/-- The frame whose 72-bit view is `v` (30_encoding.md R42). -/
def Frame.ofView72 (v : BitVec 72) : Frame :=
  { f0 := v.extractLsb' 64 8, f1 := v.extractLsb' 56 8, f2 := v.extractLsb' 48 8,
    f3 := v.extractLsb' 40 8, f4 := v.extractLsb' 32 8, f5 := v.extractLsb' 24 8,
    f6 := v.extractLsb' 16 8, f7 := v.extractLsb' 8 8, f8 := v.extractLsb' 0 8 }

/-- `B[0] : ... : B[7]`. -/
def Bytes8.view64 (b : Bytes8) : BitVec 64 :=
  b.b0 ++ b.b1 ++ b.b2 ++ b.b3 ++ b.b4 ++ b.b5 ++ b.b6 ++ b.b7

/-- The eight bytes in lines 63 to 0. -/
def Bytes8.ofLanes (v : BitVec 72) : Bytes8 :=
  { b0 := v.extractLsb' 56 8, b1 := v.extractLsb' 48 8, b2 := v.extractLsb' 40 8,
    b3 := v.extractLsb' 32 8, b4 := v.extractLsb' 24 8, b5 := v.extractLsb' 16 8,
    b6 := v.extractLsb' 8 8, b7 := v.extractLsb' 0 8 }

/-- `D[0] : ... : D[3]`. -/
def Bytes4.view32 (d : Bytes4) : BitVec 32 := d.d0 ++ d.d1 ++ d.d2 ++ d.d3

/-- The four bytes in lines 31 to 0. -/
def Bytes4.ofLanes (v : BitVec 72) : Bytes4 :=
  { d0 := v.extractLsb' 24 8, d1 := v.extractLsb' 16 8, d2 := v.extractLsb' 8 8,
    d3 := v.extractLsb' 0 8 }

/-- The operation a request names, with its operands (30_encoding.md R43, R44, R46). Total; lines above
the operands of the selected operation are not looked at (log 8). -/
def decode (r : Request) : Except DecodeError Instr :=
  match r.op.toNat with
  | 0 => .ok (.encode (r.lanes.extractLsb' 56 8) (r.lanes.extractLsb' 48 8)
      (r.lanes.extractLsb' 40 8) (r.lanes.extractLsb' 32 8) (r.lanes.extractLsb' 0 32))
  | 1 => .ok (.checksum (Bytes8.ofLanes r.lanes))
  | 2 => .ok (.decodeValue (r.lanes.extractLsb' 32 4) (Bytes4.ofLanes r.lanes))
  | 3 => .ok (.unpackS (Frame.ofView72 r.lanes))
  | 4 => .ok (.unpackSV (Frame.ofView72 r.lanes))
  | 5 => .ok (.interpretStatus (r.lanes.extractLsb' 0 32))
  | _ => .error (.reservedOp r.op)

/-- The request that presents an operation: its `OP` (R44) and its operands on the lines, every unused
line 0. -/
def encode (i : Instr) : Request :=
  match i with
  | .encode cmd addr typ bank value =>
    { op := 0#3, lanes := (cmd ++ addr ++ typ ++ bank ++ value).setWidth 72 }
  | .checksum b => { op := 1#3, lanes := b.view64.setWidth 72 }
  | .decodeValue len d => { op := 2#3, lanes := (len ++ d.view32).setWidth 72 }
  | .unpackS f => { op := 3#3, lanes := f.view72 }
  | .unpackSV f => { op := 4#3, lanes := f.view72 }
  | .interpretStatus code => { op := 5#3, lanes := code.setWidth 72 }

/-- How many operand lines each operation uses (the widths of 30_encoding.md R46 added up). -/
def operandBits (i : Instr) : Nat :=
  match i with
  | .encode _ _ _ _ _ => 64
  | .checksum _ => 64
  | .decodeValue _ _ => 36
  | .unpackS _ => 72
  | .unpackSV _ => 72
  | .interpretStatus _ => 32

/-- The request whose bits are the low `nbits` bits of `w`: `OP` in bits 2 to 0 as
spec/opcode_table.json numbers them, the operand lines from bit 3 up, every bit above `nbits` 0. -/
def Request.ofTableWord (nbits w : Nat) : Request :=
  { op := BitVec.ofNat 3 (w % 2 ^ nbits), lanes := BitVec.ofNat 72 (w % 2 ^ nbits / 8) }

/-- What the decoder reads from the bits of a table row. -/
def decodeTableWord (nbits w : Nat) : Option Instr :=
  match decode (Request.ofTableWord nbits w) with
  | .ok i => some i
  | .error _ => none

end Sys2Proof
end

