-- ==== Sys2Proof/Config.lean ====
section
/-! DEFINITION. What the spec leaves open. Each constant here is opaque: it has no body a proof can
see, so a statement proved of the model holds whatever its value is. -/

namespace Sys2Proof

/-- FREE VALUE (log 1). What the `draw`-th reset leaves in `TXF`: "an unspecified value: any bit
pattern of its width, not necessarily the same after two resets" (10_state.md R23). -/
opaque Config.resetTxf (draw : Nat) : Frame

/-- FREE VALUE (log 1). What the `draw`-th reset leaves in `CSUM` (10_state.md R23). -/
opaque Config.resetCsum (draw : Nat) : Byte

/-- FREE VALUE (log 1). What the `draw`-th reset leaves in `RVAL` (10_state.md R23). -/
opaque Config.resetRval (draw : Nat) : Word

/-- FREE VALUE (log 1). What the `draw`-th reset leaves in `STAT` (10_state.md R23). -/
opaque Config.resetStat (draw : Nat) : Byte

/-- FREE VALUE (log 1). What the `draw`-th reset leaves in `OUTC`: any of the 16 patterns, the unused
codes 9 to 15 among them (10_state.md R15, R23). -/
opaque Config.resetOutc (draw : Nat) : BitVec 4

/-- FREE VALUE (log 12). What the host puts on lane `lane` of `DECODE_VALUE` when the assembly list is
shorter than four bytes: a don't-care that no operation reads (30_encoding.md R53, R55). -/
opaque Config.freeLane (lane : Nat) : Byte

/-- The open parameter `LAT`, the time one operation takes (70_reset_and_hazards.md R127;
92_eei_decisions.md, open parameters). No rule and no definition of the model depends on it (log 11). -/
opaque Config.lat : NNRat

end Sys2Proof
end

