-- ==== Sys2Proof/Machine/State.lean ====
section
/-! DEFINITION. The state of the codec, the reasons a step can stop, and the state after reset
(spec/10_state.md). -/

namespace Sys2Proof.Machine

/-- The nine outcomes of a status code (42_status.md R90). -/
inductive Outcome where
  | success
  | commandLoaded
  | incorrectChecksum
  | invalidCommand
  | wrongType
  | invalidValue
  | eepromLocked
  | commandNotAvailable
  | unknown
  deriving DecidableEq, Repr

/-- The five result registers (10_state.md R10). -/
inductive Reg where
  | txf
  | csum
  | rval
  | stat
  | outc
  deriving DecidableEq, Repr

/-- A move of the host (70_reset_and_hazards.md R118): it presents one request, or it asserts reset.
One move holds one request, so two requests at once cannot be written (60_exceptions.md R109). Reading
a register is no move: it changes nothing (10_state.md R17); see `State.read`. -/
inductive HostMove where
  | request (r : Request)
  | reset
  deriving DecidableEq, Repr

/-- The five result registers of 10_state.md R10, and two fields of the model's own: `host`, the moves
the host still makes, in issue order (log 3), and `resets`, the number of the free draw that the last
reset took (log 2). -/
structure State where
  /-- `TXF[0..8]`, the last command frame built (R11). -/
  txf : Frame
  /-- `CSUM`, the last checksum computed on request (R12). -/
  csum : Byte
  /-- `RVAL`, the last value decoded, read as two's complement (R13). -/
  rval : Word
  /-- `STAT`, the last status byte extracted, unsigned (R14). -/
  stat : Byte
  /-- `OUTC`, the last outcome decoded; 4 bits, since reset may leave a code 9 to 15 (R15, R23). -/
  outc : BitVec 4
  /-- The model's own: what the host does from now on. -/
  host : List HostMove
  /-- The model's own: which free draw the last reset took. -/
  resets : Nat
  deriving DecidableEq, Repr

/-- The causes a step can stop with a fault. The list is empty: the block raises no synchronous
exception (60_exceptions.md R100), so no step of the model can answer a fault. -/
inductive Fault where
  deriving DecidableEq, Repr

/-- The reasons a request gets no step. -/
inductive Refusal where
  /-- An operation without a meaning in the model. No arm of `exec` raises it. Safe. -/
  | notModelled (mnemonic : String)
  /-- The host presented `OP` 6 or 7, which name no operation; raised by `step`. The spec gives such a
  request no transition (30_encoding.md R47, 60_exceptions.md R108). Safe. -/
  | reservedOp (op : BitVec 3)
  deriving DecidableEq, Repr

/-- The block right after reset: idle, every result register unspecified (10_state.md R23,
70_reset_and_hazards.md R115), so each holds a free value (log 1); the host has presented nothing. -/
def State.reset : State :=
  { txf := Config.resetTxf 0
    csum := Config.resetCsum 0
    rval := Config.resetRval 0
    stat := Config.resetStat 0
    outc := Config.resetOutc 0
    host := []
    resets := 0 }

end Sys2Proof.Machine
end

