-- ==== Sys2Proof/Machine/Flags.lean ====
section
/-! DEFINITION. The block has no flags (10_state.md R21): no operation sets a carry, overflow, zero,
error or valid flag. The one carry it generates is that of the checksum adder, and it is discarded;
this file holds that adder, the hardware form of the checksum generator (40_encode_checksum.md R61). -/

namespace Sys2Proof.Machine

/-- The 9-bit sum of two bytes; bit 8 is the carry (R61). -/
def sum9 (a b : Byte) : BitVec 9 := a.setWidth 9 + b.setWidth 9

/-- The 8-bit adder with its carry out discarded: the low eight bits of the 9-bit sum (R61). -/
def addDiscardCarry (a b : Byte) : Byte := (sum9 a b).extractLsb' 0 8

/-- The checksum generator as an accumulator that starts at 0 and takes eight bytes through the
carry-discard adder (R61, the hardware form). `sum8` in Ops.lean is the normative form. -/
def sum8Adder (b : Bytes8) : Byte :=
  [b.b0, b.b1, b.b2, b.b3, b.b4, b.b5, b.b6, b.b7].foldl addDiscardCarry 0#8

end Sys2Proof.Machine
end

