-- ==== Sys2Proof/WellFormed.lean ====
section
/-! DEFINITION. A request as a harness with wide integers holds it, and the check that each operand
lies in the range of its port (30_encoding.md R46; 92_eei_decisions.md D16; 95_test_vectors.md X3, X4).
`Instr` itself needs no check: its operands are exactly as wide as their ports. -/

namespace Sys2Proof

/-- The six requests with integer operands of no fixed width. -/
inductive WideRequest where
  | encode (cmd addr typ bank value : Int)
  | checksum (b : List Int)
  | decodeValue (len : Int) (d : List Int)
  | unpackS (f : List Int)
  | unpackSV (f : List Int)
  | interpretStatus (code : Int)
  deriving DecidableEq, Repr

/-- An unsigned byte operand: 0 to 255 (R46). -/
def isByte (v : Int) : Bool := decide (0 ≤ v) && decide (v ≤ 255)

/-- A two's complement 32-bit operand: -2147483648 to 2147483647 (R46). -/
def isI32 (v : Int) : Bool := decide (-2147483648 ≤ v) && decide (v ≤ 2147483647)

/-- The operand `LEN`: 0 to 15 (R46). -/
def isLen (v : Int) : Bool := decide (0 ≤ v) && decide (v ≤ 15)

/-- Exactly `n` bytes. -/
def areBytes (n : Nat) (bs : List Int) : Bool := decide (bs.length = n) && bs.all isByte

/-- The list of a `DECODE_VALUE`: four bytes, or only `len` bytes when `len` is less than 4
(30_encoding.md R53). -/
def areLanes (len : Int) (d : List Int) : Bool :=
  (decide (d.length = 4) || (decide (len < 4) && decide ((d.length : Int) = len))) && d.all isByte

/-- Every operand lies in the range of its port (R46). -/
def WideRequest.wellFormed : WideRequest → Bool
  | .encode cmd addr typ bank value =>
    isByte cmd && isByte addr && isByte typ && isByte bank && isI32 value
  | .checksum b => areBytes 8 b
  | .decodeValue len d => isLen len && areLanes len d
  | .unpackS f => areBytes 9 f
  | .unpackSV f => areBytes 9 f
  | .interpretStatus code => isI32 code

end Sys2Proof
end

