-- ==== Sys2Proof/Machine/Operands.lean ====
section
/-! DEFINITION. How bits become the values the rules use (00_scope.md section 4; 30_encoding.md R46,
R48), the byte groups an operation takes from a frame, and what the host may present as an operand. -/

namespace Sys2Proof.Machine

/-- The unsigned 32-bit pattern of a signed integer (00_scope.md section 4, Signedness): `v` when
`v` is not negative, `2^32 + v` otherwise, for `v` in the 32-bit signed range. -/
def u32 (v : Int) : Nat := if 0 ≤ v then v.toNat else (4294967296 + v).toNat

/-- The signed integer of a 32-bit pattern (00_scope.md section 4, Signedness). -/
def s32 (u : Nat) : Int := if u < 2147483648 then (u : Int) else (u : Int) - 4294967296

/-- A status byte as an integer status code: zero-extension, never sign-extension
(30_encoding.md R48 (e), 41_decode_unpack.md R80). -/
def zext32 (b : Byte) : Word := b.setWidth 32

/-- Byte `i` of a frame; an index above 8 does not exist (20_memory.md R25, R26). -/
def frameByteAt (f : Frame) (i : Nat) : Option Byte :=
  match i with
  | 0 => some f.f0
  | 1 => some f.f1
  | 2 => some f.f2
  | 3 => some f.f3
  | 4 => some f.f4
  | 5 => some f.f5
  | 6 => some f.f6
  | 7 => some f.f7
  | 8 => some f.f8
  | _ => none

/-- `F[0..7]`: the span of the checksum, eight bytes; the ninth is never an input
(40_encode_checksum.md R66). -/
def frameSpan (f : Frame) : Bytes8 :=
  { b0 := f.f0, b1 := f.f1, b2 := f.f2, b3 := f.f3, b4 := f.f4, b5 := f.f5, b6 := f.f6, b7 := f.f7 }

/-- `F[2]`, the status byte of a response frame (30_encoding.md R41). -/
def frameStatus (f : Frame) : Byte := f.f2

/-- `F[4..7]`, the value bytes of either frame (20_memory.md R26). -/
def frameValueBytes (f : Frame) : Bytes4 := { d0 := f.f4, d1 := f.f5, d2 := f.f6, d3 := f.f7 }

/-- A frame as the host hands it to the transport: byte 0 first, byte 8 last (20_memory.md R29). -/
def frameToWire (f : Frame) : List Byte :=
  [f.f0, f.f1, f.f2, f.f3, f.f4, f.f5, f.f6, f.f7, f.f8]

/-- The frame operand made of the bytes read from the transport, first byte read first. Only exactly
nine bytes make one (20_memory.md R29, 30_encoding.md R52). -/
def frameOfWire (bs : List Byte) : Option Frame :=
  match bs with
  | [f0, f1, f2, f3, f4, f5, f6, f7, f8] => some ⟨f0, f1, f2, f3, f4, f5, f6, f7, f8⟩
  | _ => none

/-- The first `min 4 bs.length` lanes hold the first bytes of the slice. -/
def lanesHold (bs : List Byte) (d : Bytes4) : Bool :=
  (bs.take 4).isPrefixOf [d.d0, d.d1, d.d2, d.d3]

/-- Whether `DECODE_VALUE len, d` is a way for the host to present the slice `bs`
(41_decode_unpack.md R76; 92_eei_decisions.md D5): up to 15 bytes `LEN` is the length and the lanes hold
the first bytes; a longer slice is presented with any `LEN` other than 4. -/
def presentsSlice (bs : List Byte) (len : BitVec 4) (d : Bytes4) : Bool :=
  if bs.length ≤ 15 then decide (len.toNat = bs.length) && lanesHold bs d
  else decide (len.toNat ≠ 4)

/-- The low eight bits of an integer that lies in a byte's range. -/
def byteOfInt (v : Int) : Byte := BitVec.ofInt 8 v

/-- Eight bytes from a harness's list of integers. -/
def bytes8OfInts (l : List Int) : Option Bytes8 :=
  match l.map byteOfInt with
  | [b0, b1, b2, b3, b4, b5, b6, b7] => some ⟨b0, b1, b2, b3, b4, b5, b6, b7⟩
  | _ => none

/-- One lane of `DECODE_VALUE` from a harness's list; a missing lane is a don't-care
(30_encoding.md R53, R55; log 12). -/
def laneOfInts (l : List Int) (i : Nat) : Byte :=
  match l[i]? with
  | some v => byteOfInt v
  | none => Config.freeLane i

/-- The request a harness with wide integers presents, operand by operand as its port reads it; an
operand outside its range is refused, never truncated (30_encoding.md R46, 92_eei_decisions.md D16). -/
def instrOfWide (w : WideRequest) : Option Instr :=
  if w.wellFormed then
    match w with
    | .encode cmd addr typ bank value =>
      some (.encode (byteOfInt cmd) (byteOfInt addr) (byteOfInt typ) (byteOfInt bank)
        (BitVec.ofInt 32 value))
    | .checksum b => (bytes8OfInts b).map .checksum
    | .decodeValue len d =>
      some (.decodeValue (BitVec.ofInt 4 len)
        { d0 := laneOfInts d 0, d1 := laneOfInts d 1, d2 := laneOfInts d 2, d3 := laneOfInts d 3 })
    | .unpackS f => (frameOfWire (f.map byteOfInt)).map .unpackS
    | .unpackSV f => (frameOfWire (f.map byteOfInt)).map .unpackSV
    | .interpretStatus code => some (.interpretStatus (BitVec.ofInt 32 code))
  else none

end Sys2Proof.Machine
end

