-- ==== Sys2Proof/Machine/Ops.lean ====
section
/-! DEFINITION. The shared operations: the five function units (00_scope.md R1), the result registers'
reads and writes (10_state.md R10 to R18), reset (70_reset_and_hazards.md R115, R116) and taking the
host's next move. There is no operation that takes an exception or returns from one: the block has
neither (60_exceptions.md R100, R104, R105). -/

namespace Sys2Proof.Machine

/-! ### The marshaller -/

/-- The marshaller, packing: most significant byte first (40_encode_checksum.md R60). -/
def be32Pack (u : Word) : Bytes4 :=
  { d0 := u.extractLsb' 24 8, d1 := u.extractLsb' 16 8, d2 := u.extractLsb' 8 8,
    d3 := u.extractLsb' 0 8 }

/-- The marshaller, unpacking: `b0 : b1 : b2 : b3` (41_decode_unpack.md R75). -/
def be32Unpack (b : Bytes4) : Word := b.d0 ++ b.d1 ++ b.d2 ++ b.d3

/-! ### The checksum generator -/

/-- The checksum: the sum of the eight unsigned bytes modulo 256 (40_encode_checksum.md R61, the
normative form; 90_conflicts.md C3). -/
def sum8 (b : Bytes8) : Byte :=
  BitVec.ofNat 8 (b.b0.toNat + b.b1.toNat + b.b2.toNat + b.b3.toNat + b.b4.toNat + b.b5.toNat
    + b.b6.toNat + b.b7.toNat)

/-! ### The frame packer -/

/-- The packer: address, command id, type, bank, the value big-endian and the checksum of those eight
bytes, at their fixed offsets (30_encoding.md R40, R49; 40_encode_checksum.md R62). -/
def packFrame (cmd addr typ bank : Byte) (value : Word) : Frame :=
  let p := be32Pack value
  { f0 := addr, f1 := cmd, f2 := typ, f3 := bank, f4 := p.d0, f5 := p.d1, f6 := p.d2, f7 := p.d3
    f8 := sum8 { b0 := addr, b1 := cmd, b2 := typ, b3 := bank, b4 := p.d0, b5 := p.d1, b6 := p.d2,
                 b7 := p.d3 } }

/-! ### Value decoding -/

/-- `decode_value` on the port's operands: the four lanes big-endian when `LEN` is 4, the zero sentinel
otherwise (41_decode_unpack.md R76). -/
def decodeLanes (len : BitVec 4) (d : Bytes4) : Word :=
  if len = 4#4 then be32Unpack d else 0#32

/-- The source's `decode_value` on a slice of any length (41_decode_unpack.md R76). -/
def decodeSlice (bs : List Byte) : Word :=
  match bs with
  | [b0, b1, b2, b3] => be32Unpack ⟨b0, b1, b2, b3⟩
  | _ => 0#32

/-! ### The status decoder -/

/-- The mapping table, over the signed value of all 32 bits (42_status.md R91, R92). -/
def statusOutcome (code : Word) : Outcome :=
  if code.toInt = 100 then .success
  else if code.toInt = 101 then .commandLoaded
  else if code.toInt = 1 then .incorrectChecksum
  else if code.toInt = 2 then .invalidCommand
  else if code.toInt = 3 then .wrongType
  else if code.toInt = 4 then .invalidValue
  else if code.toInt = 5 then .eepromLocked
  else if code.toInt = 6 then .commandNotAvailable
  else .unknown

/-- The 4-bit code in which `OUTC` holds an outcome (42_status.md R90). -/
def outcomeCode (o : Outcome) : BitVec 4 :=
  match o with
  | .success => 0#4
  | .commandLoaded => 1#4
  | .incorrectChecksum => 2#4
  | .invalidCommand => 3#4
  | .wrongType => 4#4
  | .invalidValue => 5#4
  | .eepromLocked => 6#4
  | .commandNotAvailable => 7#4
  | .unknown => 8#4

/-- The outcome a code of `OUTC` names; the codes 9 to 15 name none (10_state.md R15, R90). -/
def outcomeOfCode (c : BitVec 4) : Option Outcome :=
  match c.toNat with
  | 0 => some .success
  | 1 => some .commandLoaded
  | 2 => some .incorrectChecksum
  | 3 => some .invalidCommand
  | 4 => some .wrongType
  | 5 => some .invalidValue
  | 6 => some .eepromLocked
  | 7 => some .commandNotAvailable
  | 8 => some .unknown
  | _ => none

/-! ### The result registers -/

/-- The width of each register; 124 bits in all (10_state.md R10). -/
abbrev Reg.width : Reg → Nat
  | .txf => 72
  | .csum => 8
  | .rval => 32
  | .stat => 8
  | .outc => 4

/-- The host reads a register: the value last written, with no side effect (10_state.md R17). `TXF` is
read as its 72-bit view (30_encoding.md R42). -/
def State.read (s : State) (r : Reg) : BitVec r.width :=
  match r with
  | .txf => s.txf.view72
  | .csum => s.csum
  | .rval => s.rval
  | .stat => s.stat
  | .outc => s.outc

/-- The host reads one byte of `TXF`; there is no byte 9 (20_memory.md R25). -/
def State.readTxfByte (s : State) (i : Nat) : Option Byte := frameByteAt s.txf i

/-- The host reads `RVAL` as the signed integer it holds (10_state.md R13). -/
def State.readValue (s : State) : Int := s.rval.toInt

/-- The host reads `OUTC` as the outcome it names, if it names one (10_state.md R15). -/
def State.readOutcome (s : State) : Option Outcome := outcomeOfCode s.outc

/-- Write all nine bytes of `TXF` at once (10_state.md R11). -/
def State.writeTxf (s : State) (f : Frame) : State := { s with txf := f }

/-- Write `CSUM` (10_state.md R12). -/
def State.writeCsum (s : State) (b : Byte) : State := { s with csum := b }

/-- Write `RVAL` (10_state.md R13). -/
def State.writeRval (s : State) (v : Word) : State := { s with rval := v }

/-- Write `STAT` (10_state.md R14). -/
def State.writeStat (s : State) (b : Byte) : State := { s with stat := b }

/-- Write `OUTC` (10_state.md R15). -/
def State.writeOutc (s : State) (o : Outcome) : State := { s with outc := outcomeCode o }

/-! ### Reset and the host's moves -/

/-- The reset transition: every result register unspecified, by a draw of its own, the block idle
(10_state.md R23; 70_reset_and_hazards.md R115, R116; log 1, 2). -/
def State.takeReset (s : State) : State :=
  { txf := Config.resetTxf (s.resets + 1)
    csum := Config.resetCsum (s.resets + 1)
    rval := Config.resetRval (s.resets + 1)
    stat := Config.resetStat (s.resets + 1)
    outc := Config.resetOutc (s.resets + 1)
    host := s.host
    resets := s.resets + 1 }

/-- The host's moves from now on are `ms`. -/
def State.setHost (s : State) (ms : List HostMove) : State := { s with host := ms }

/-- The host makes the move `m` next, before those it still had to make. -/
def State.present (s : State) (m : HostMove) : State := s.setHost (m :: s.host)

/-- What a step finds at the port. -/
inductive Fetched where
  /-- The host presents nothing. -/
  | idle
  /-- The host asserts reset; the state is the one with that move taken. -/
  | reset (s : State)
  /-- The host presents a request of the operation `i`. -/
  | run (i : Instr) (s : State)
  /-- The host presents a request with a reserved `OP`. -/
  | reserved (op : BitVec 3)
  deriving DecidableEq, Repr

/-- Take the host's next move and decode its request. -/
def fetch (s : State) : Fetched :=
  match s.host with
  | [] => .idle
  | .reset :: ms => .reset (s.setHost ms)
  | .request r :: ms =>
    match decode r with
    | .ok i => .run i (s.setHost ms)
    | .error (.reservedOp op) => .reserved op

end Sys2Proof.Machine
end

