-- ==== Sys2Proof/Machine/Packing.lean ====
section
/-! DEFINITION. The packing side: `ENCODE` and `CHECKSUM` (spec/40_encode_checksum.md). -/

namespace Sys2Proof.Machine

/-- `ENCODE`: all nine bytes of `TXF`, nothing else; `CSUM` is not written (R62, 10_state.md R12). -/
def execEncode (cmd addr typ bank : Byte) (value : Word) (s : State) :
    Host.Outcome State Fault Refusal :=
  .next (s.writeTxf (packFrame cmd addr typ bank value))

/-- `CHECKSUM`: `CSUM`, nothing else (R63). -/
def execChecksum (b : Bytes8) (s : State) : Host.Outcome State Fault Refusal :=
  .next (s.writeCsum (sum8 b))

end Sys2Proof.Machine
end

