-- ==== Sys2Proof/Machine/Status.lean ====
section
/-! DEFINITION. The status decoder: `INTERPRET_STATUS` (spec/42_status.md). -/

namespace Sys2Proof.Machine

/-- `INTERPRET_STATUS`: `OUTC` from the operand `CODE`; `STAT` is not read (R91). -/
def execInterpretStatus (code : Word) (s : State) : Host.Outcome State Fault Refusal :=
  .next (s.writeOutc (statusOutcome code))

end Sys2Proof.Machine
end

