-- ==== Sys2Proof/Machine/Unpacking.lean ====
section
/-! DEFINITION. The unpacking side: `DECODE_VALUE`, `UNPACK_S` and `UNPACK_SV`
(spec/41_decode_unpack.md). -/

namespace Sys2Proof.Machine

/-- `DECODE_VALUE`: `RVAL` in both branches, no flag (R76, 60_exceptions.md R101). -/
def execDecodeValue (len : BitVec 4) (d : Bytes4) (s : State) : Host.Outcome State Fault Refusal :=
  .next (s.writeRval (decodeLanes len d))

/-- `UNPACK_S`: `STAT` from byte 2; `RVAL` keeps what it held (R77). -/
def execUnpackS (f : Frame) (s : State) : Host.Outcome State Fault Refusal :=
  .next (s.writeStat (frameStatus f))

/-- `UNPACK_SV`: `STAT` from byte 2 and `RVAL` from bytes 4 to 7, together (R78). -/
def execUnpackSV (f : Frame) (s : State) : Host.Outcome State Fault Refusal :=
  .next ((s.writeStat (frameStatus f)).writeRval (be32Unpack (frameValueBytes f)))

end Sys2Proof.Machine
end

