-- ==== Sys2Proof/Machine/Dispatch.lean ====
section
/-! DEFINITION. One arm per operation of 30_encoding.md R44. -/

namespace Sys2Proof.Machine

def exec (i : Instr) (s : State) : Host.Outcome State Fault Refusal :=
  match i with
  | .encode cmd addr typ bank value => Sys2Proof.Machine.execEncode cmd addr typ bank value s
  | .checksum b => Sys2Proof.Machine.execChecksum b s
  | .decodeValue len d => Sys2Proof.Machine.execDecodeValue len d s
  | .unpackS f => Sys2Proof.Machine.execUnpackS f s
  | .unpackSV f => Sys2Proof.Machine.execUnpackSV f s
  | .interpretStatus code => Sys2Proof.Machine.execInterpretStatus code s

end Sys2Proof.Machine
end

