-- ==== Sys2Proof/Machine/Step.lean ====
section
/-! DEFINITION. One step: the host's next move (00_scope.md R4; 70_reset_and_hazards.md R116, R118). -/

namespace Sys2Proof.Machine

/-- One atomic step. A request runs its operation; a reset is a transition of its own (R116); a request
with a reserved `OP` is refused (60_exceptions.md R108). With nothing presented the block does nothing
on its own (R118): the state stands (log 5). -/
def step (s : State) : Host.Outcome State Fault Refusal :=
  match fetch s with
  | .idle => .next s
  | .reset t => .next t.takeReset
  | .run i t => exec i t
  | .reserved op => .refused (.reservedOp op)

/-- The host presents next the request whose bits are the low `nbits` bits of `w` (log 4). -/
def State.withFetchWord (s : State) (nbits w : Nat) : State :=
  s.present (.request (Request.ofTableWord nbits w))

end Sys2Proof.Machine
end

