-- ==== Sys2Proof/Machine/Assembly.lean ====
section
/-! DEFINITION. The assembly form of a request (30_encoding.md R53) and the host that issues it: one
line names an operation and its operands; an operand that names a register stands for the value the host
reads there between two steps. No line is a pseudo-instruction (R54). The host's side, not the block's:
no meaning of an operation rests on this file. -/

namespace Sys2Proof.Machine

/-- The six mnemonics (30_encoding.md R44). -/
inductive Mnemonic where
  | encode
  | checksum
  | decodeValue
  | unpackS
  | unpackSV
  | interpretStatus
  deriving DecidableEq, Repr

/-- An integer operand: written out, or read by the host from a register (R53; log 13). -/
inductive AsmInt where
  | lit (v : Int)
  | txfByte (i : Nat)
  | csum
  | rval
  | stat
  | outc
  | zext32Stat
  deriving DecidableEq, Repr

/-- An operand of a line: an integer, a bracketed list of integers, or the bytes `TXF[a..b]`, both ends
included (R53; 00_scope.md section 4). -/
inductive AsmOperand where
  | int (v : AsmInt)
  | list (vs : List Int)
  | txfSlice (a b : Nat)
  deriving DecidableEq, Repr

/-- One request on one line: the mnemonic, then the operands in the order of the source's signature. -/
structure AsmLine where
  mnemonic : Mnemonic
  operands : List AsmOperand
  deriving DecidableEq, Repr

/-! ### What the host passes for an operand -/

/-- The integer the host passes; `RVAL` is read signed, the other registers unsigned
(10_state.md R13, R14; 41_decode_unpack.md R80). -/
def asmIntValue (s : State) (v : AsmInt) : Option Int :=
  match v with
  | .lit n => some n
  | .txfByte i => (s.readTxfByte i).map fun b => (b.toNat : Int)
  | .csum => some s.csum.toNat
  | .rval => some s.readValue
  | .stat => some s.stat.toNat
  | .outc => some s.outc.toNat
  | .zext32Stat => some (zext32 s.stat).toInt

/-- The bytes `TXF[a..b]`, for `a` up to `b` up to 8. -/
def asmTxfSlice (s : State) (a b : Nat) : Option (List Int) :=
  if a ≤ b ∧ b ≤ 8 then
    some ((((frameToWire s.txf).drop a).take (b + 1 - a)).map fun x => (x.toNat : Int))
  else none

/-- The list of integers the host passes for a byte-array operand. -/
def asmBytes (s : State) (o : AsmOperand) : Option (List Int) :=
  match o with
  | .int _ => none
  | .list vs => some vs
  | .txfSlice a b => asmTxfSlice s a b

/-- The request, in wide integers, that a line stands for when the host issues it in state `s`. -/
def wideOfLine (s : State) (l : AsmLine) : Option WideRequest :=
  match l.mnemonic, l.operands with
  | .encode, [.int c, .int a, .int t, .int b, .int v] =>
    (asmIntValue s c).bind fun c => (asmIntValue s a).bind fun a => (asmIntValue s t).bind fun t =>
      (asmIntValue s b).bind fun b => (asmIntValue s v).map fun v => .encode c a t b v
  | .checksum, [o] => (asmBytes s o).map .checksum
  | .decodeValue, [.int n, o] =>
    (asmIntValue s n).bind fun n => (asmBytes s o).map fun d => .decodeValue n d
  | .unpackS, [o] => (asmBytes s o).map .unpackS
  | .unpackSV, [o] => (asmBytes s o).map .unpackSV
  | .interpretStatus, [.int c] => (asmIntValue s c).map .interpretStatus
  | _, _ => none

/-- The operation a line stands for when the host issues it in state `s`; a line whose operands do not
fit their ports is refused by the host's harness (30_encoding.md R46). -/
def instrOfLine (s : State) (l : AsmLine) : Option Instr := (wideOfLine s l).bind instrOfWide

/-- The host issues one line: it reads the registers the line names and presents the request next. -/
def issueLine (s : State) (l : AsmLine) : Option State :=
  (instrOfLine s l).map fun i => s.present (.request (encode i))

/-- The host issues the lines of a program one after another, one step each (10_state.md R20). -/
def runListing (ls : List AsmLine) (s : State) : Option State :=
  match ls with
  | [] => some s
  | l :: rest =>
    match issueLine s l with
    | none => none
    | some t =>
      match step t with
      | .next u => runListing rest u
      | _ => none

/-! ### Reading a line of text -/

/-- A piece of a line: a run of letters, digits and underscores, or a single other character. -/
inductive Token where
  | word (cs : List Char)
  | sym (c : Char)
  deriving DecidableEq, Repr

/-- A character of a word. -/
def isWordChar (c : Char) : Bool := c.isAlphanum || c == '_'

/-- The word collected so far, if there is one, in front of the pieces that follow. -/
def flushWord (acc : List Char) (ts : List Token) : List Token :=
  if acc.isEmpty then ts else .word acc.reverse :: ts

/-- Cut a line into pieces; blanks only separate. `acc` is the word being collected, backwards. -/
def tokens (acc : List Char) : List Char → List Token
  | [] => flushWord acc []
  | c :: cs =>
    if isWordChar c then tokens (c :: acc) cs
    else if c == ' ' then flushWord acc (tokens [] cs)
    else flushWord acc (.sym c :: tokens [] cs)

/-- The value of a digit in base 16. -/
def hexDigit (c : Char) : Option Nat :=
  if '0' ≤ c ∧ c ≤ '9' then some (c.toNat - 48)
  else if 'a' ≤ c ∧ c ≤ 'f' then some (c.toNat - 87)
  else if 'A' ≤ c ∧ c ≤ 'F' then some (c.toNat - 55)
  else none

/-- The number whose digits in base `base` are `cs`, after the digits worth `acc`. -/
def digitsValue (base acc : Nat) : List Char → Option Nat
  | [] => some acc
  | c :: cs =>
    match hexDigit c with
    | some d => if d < base then digitsValue base (base * acc + d) cs else none
    | none => none

/-- A number: hexadecimal after `0x`, decimal otherwise (R53). -/
def numberOfWord (cs : List Char) : Option Nat :=
  match cs with
  | [] => none
  | ['0', 'x'] => none
  | '0' :: 'x' :: hs => digitsValue 16 0 hs
  | ds => digitsValue 10 0 ds

/-- The mnemonic a word spells, in capitals (R53). -/
def mnemonicOfWord (cs : List Char) : Option Mnemonic :=
  if cs = "ENCODE".toList then some .encode
  else if cs = "CHECKSUM".toList then some .checksum
  else if cs = "DECODE_VALUE".toList then some .decodeValue
  else if cs = "UNPACK_S".toList then some .unpackS
  else if cs = "UNPACK_SV".toList then some .unpackSV
  else if cs = "INTERPRET_STATUS".toList then some .interpretStatus
  else none

/-- The register, or else the number, that a word names. -/
def asmIntOfWord (cs : List Char) : Option AsmInt :=
  if cs = "CSUM".toList then some .csum
  else if cs = "RVAL".toList then some .rval
  else if cs = "STAT".toList then some .stat
  else if cs = "OUTC".toList then some .outc
  else (numberOfWord cs).map fun n => .lit n

/-- The items of a bracketed list after its opening bracket, and the pieces after its closing one. -/
def listItems : List Token → Option (List Int × List Token)
  | .sym ']' :: ts => some ([], ts)
  | .word w :: .sym ']' :: ts => (numberOfWord w).map fun n => ([(n : Int)], ts)
  | .word w :: .sym ',' :: .word v :: ts =>
    (numberOfWord w).bind fun n =>
      (listItems (.word v :: ts)).map fun p => ((n : Int) :: p.1, p.2)
  | _ => none

/-- Add the comma-separated operand `o` in front of the operands that `more` reads from `ts`. -/
def joinOperand (o : AsmOperand) (ts : List Token)
    (more : List Token → Option (List AsmOperand)) : Option (List AsmOperand) :=
  match ts with
  | [] => some [o]
  | .sym ',' :: rest => (more rest).map fun os => o :: os
  | _ => none

/-- The operands of a line, separated by commas (R53). `fuel` bounds their number; the length of the
line is always enough. -/
def operandsOf (fuel : Nat) (ts : List Token) : Option (List AsmOperand) :=
  match fuel with
  | 0 => none
  | fuel + 1 =>
    match ts with
    | .sym '[' :: ts => (listItems ts).bind fun p => joinOperand (.list p.1) p.2 (operandsOf fuel)
    | .sym '-' :: .word w :: ts =>
      (numberOfWord w).bind fun n => joinOperand (.int (.lit (-(n : Int)))) ts (operandsOf fuel)
    | .word ['T', 'X', 'F'] :: .sym '[' :: .word a :: .sym '.' :: .sym '.' :: .word b :: .sym ']' :: ts =>
      (numberOfWord a).bind fun a => (numberOfWord b).bind fun b =>
        joinOperand (.txfSlice a b) ts (operandsOf fuel)
    | .word ['T', 'X', 'F'] :: .sym '[' :: .word a :: .sym ']' :: ts =>
      (numberOfWord a).bind fun a => joinOperand (.int (.txfByte a)) ts (operandsOf fuel)
    | .word ['z', 'e', 'x', 't', '_', '3', '2'] :: .sym '(' :: .word ['S', 'T', 'A', 'T'] :: .sym ')' :: ts =>
      joinOperand (.int .zext32Stat) ts (operandsOf fuel)
    | .word w :: ts => (asmIntOfWord w).bind fun v => joinOperand (.int v) ts (operandsOf fuel)
    | _ => none

/-- One request on one line of text (R53). -/
def parseLine (line : List Char) : Option AsmLine :=
  match tokens [] line with
  | .word w :: ts =>
    (mnemonicOfWord w).bind fun m =>
      (operandsOf (ts.length + 1) ts).map fun os => { mnemonic := m, operands := os }
  | _ => none

end Sys2Proof.Machine
end

