-- ==== Sys2Proof/Safety.lean ====
section
/-! DEFINITION. The terms claims use: which register each operation may write, what a lawful host is,
and which of the host's moves last set a register. -/

namespace Sys2Proof.Machine

/-- The write table of 10_state.md R10: which operation writes which register. -/
def writes (i : Instr) (r : Reg) : Bool :=
  match r, i with
  | .txf, .encode _ _ _ _ _ => true
  | .csum, .checksum _ => true
  | .rval, .decodeValue _ _ => true
  | .rval, .unpackSV _ => true
  | .stat, .unpackS _ => true
  | .stat, .unpackSV _ => true
  | .outc, .interpretStatus _ => true
  | _, _ => false

/-- `k` steps, stopping at the first fault or refusal: the machine's run over the host's moves, one after
another in order (20_memory.md R33). It is `Host.Core.run` of the machine; see
`Sys2Proof.Machine.core_run_eq_runSteps`. -/
def runSteps : Nat → State → Host.Outcome State Fault Refusal
  | 0, s => .next s
  | k + 1, s =>
    match step s with
    | .next t => runSteps k t
    | .fault r => .fault r
    | .refused r => .refused r

/-- A move the host is assumed to make: a reset, or a request that "uses only `OP` 0 to 5"
(70_reset_and_hazards.md R118). -/
def lawfulMove (m : HostMove) : Bool :=
  match m with
  | .request r => decide (r.op.toNat ≤ 5)
  | .reset => true

/-- Every move the host still makes is lawful. A run from such a state is safe: it never stops. -/
abbrev LawfulHost (s : State) : Prop := s.host.all lawfulMove = true

/-- `OUTC` holds one of the nine codes 0 to 8 (10_state.md R15, 42_status.md R90). -/
abbrev OutcNamed (s : State) : Prop := s.outc.toNat ≤ 8

/-- Whether a move sets a register: a reset sets all five, a request those its operation writes. -/
def setsReg (r : Reg) (m : HostMove) : Bool :=
  match m with
  | .reset => true
  | .request q =>
    match decode q with
    | .ok i => writes i r
    | .error _ => false

/-- The last of the moves `ms` that sets the register `r`. -/
def lastSetting (r : Reg) (ms : List HostMove) : Option HostMove := (ms.filter (setsReg r)).getLast?

/-- How many of the moves are resets. -/
def resetCount (ms : List HostMove) : Nat := (ms.filter fun m => decide (m = .reset)).length

/-- The value a lawful move gives `TXF`, `old` where it gives none; `draw` is the draw of a reset. -/
def txfSetBy (m : Option HostMove) (draw : Nat) (old : Frame) : Frame :=
  match m with
  | none => old
  | some .reset => Config.resetTxf draw
  | some (.request q) =>
    match decode q with
    | .ok (.encode cmd addr typ bank value) => packFrame cmd addr typ bank value
    | _ => old

/-- The value a lawful move gives `CSUM`. -/
def csumSetBy (m : Option HostMove) (draw : Nat) (old : Byte) : Byte :=
  match m with
  | none => old
  | some .reset => Config.resetCsum draw
  | some (.request q) =>
    match decode q with
    | .ok (.checksum b) => sum8 b
    | _ => old

/-- The value a lawful move gives `RVAL`. -/
def rvalSetBy (m : Option HostMove) (draw : Nat) (old : Word) : Word :=
  match m with
  | none => old
  | some .reset => Config.resetRval draw
  | some (.request q) =>
    match decode q with
    | .ok (.decodeValue len d) => decodeLanes len d
    | .ok (.unpackSV f) => be32Unpack (frameValueBytes f)
    | _ => old

/-- The value a lawful move gives `STAT`. -/
def statSetBy (m : Option HostMove) (draw : Nat) (old : Byte) : Byte :=
  match m with
  | none => old
  | some .reset => Config.resetStat draw
  | some (.request q) =>
    match decode q with
    | .ok (.unpackS f) => frameStatus f
    | .ok (.unpackSV f) => frameStatus f
    | _ => old

/-- The value a lawful move gives `OUTC`. -/
def outcSetBy (m : Option HostMove) (draw : Nat) (old : BitVec 4) : BitVec 4 :=
  match m with
  | none => old
  | some .reset => Config.resetOutc draw
  | some (.request q) =>
    match decode q with
    | .ok (.interpretStatus code) => outcomeCode (statusOutcome code)
    | _ => old

/-- The eight bytes in index order. -/
def bytes8List (b : Bytes8) : List Byte := [b.b0, b.b1, b.b2, b.b3, b.b4, b.b5, b.b6, b.b7]

/-- Byte `i` of eight. -/
def bytes8Get (b : Bytes8) (i : Fin 8) : Byte :=
  match i with
  | 0 => b.b0
  | 1 => b.b1
  | 2 => b.b2
  | 3 => b.b3
  | 4 => b.b4
  | 5 => b.b5
  | 6 => b.b6
  | 7 => b.b7

/-- The eight bytes with byte `i` replaced by `v`. -/
def bytes8Set (b : Bytes8) (i : Fin 8) (v : Byte) : Bytes8 :=
  match i with
  | 0 => { b with b0 := v }
  | 1 => { b with b1 := v }
  | 2 => { b with b2 := v }
  | 3 => { b with b3 := v }
  | 4 => { b with b4 := v }
  | 5 => { b with b5 := v }
  | 6 => { b with b6 := v }
  | 7 => { b with b7 := v }

end Sys2Proof.Machine
end

