-- ==== Sys2Proof/Certificates/Slice0/Obligations.lean ====
section
/-! DEFINITION. The statements for the provers. Each docstring names the rule of spec/ it formalises.
The block has no memory (20_memory.md R25), no flags (10_state.md R21), no program counter (R20), no
mode (R22) and takes no exception (60_exceptions.md R100), so a frame here is about the five result
registers, together with the model's own fields `host` (log 3) and
`resets` (log 2). -/

open Sys2Proof Sys2Proof.Machine

/-! ### The packing side -/

/-- R62. For all operands and every state `ENCODE` (`OP` 0) completes; all nine bytes of `TXF` are as
the pseudocode gives them, over the numbers, and nothing else changes. -/
def Obligations.EncodeBuildsCommandFrame : Prop :=
  ∀ (cmd addr typ bank : Byte) (value : Word) (s : State),
    (encode (.encode cmd addr typ bank value)).op.toNat = 0 ∧
    ∃ t, exec (.encode cmd addr typ bank value) s = .next t ∧
      t.txf.f0 = addr ∧ t.txf.f1 = cmd ∧ t.txf.f2 = typ ∧ t.txf.f3 = bank ∧
      t.txf.f4.toNat = u32 value.toInt / 2 ^ 24 ∧
      t.txf.f5.toNat = u32 value.toInt / 2 ^ 16 % 256 ∧
      t.txf.f6.toNat = u32 value.toInt / 2 ^ 8 % 256 ∧
      t.txf.f7.toNat = u32 value.toInt % 256 ∧
      t.txf.f8.toNat = (addr.toNat + cmd.toNat + typ.toNat + bank.toNat + t.txf.f4.toNat
        + t.txf.f5.toNat + t.txf.f6.toNat + t.txf.f7.toNat) % 256 ∧
      t.csum = s.csum ∧ t.rval = s.rval ∧ t.stat = s.stat ∧ t.outc = s.outc ∧
      t.host = s.host ∧ t.resets = s.resets

/-- R63. For all operands and every state `CHECKSUM` (`OP` 1) completes; `CSUM` is the sum of the eight
bytes modulo 256 and nothing else changes. -/
def Obligations.ChecksumSumsEightBytes : Prop :=
  ∀ (b : Bytes8) (s : State),
    (encode (.checksum b)).op.toNat = 1 ∧
    ∃ t, exec (.checksum b) s = .next t ∧
      t.csum.toNat = (b.b0.toNat + b.b1.toNat + b.b2.toNat + b.b3.toNat + b.b4.toNat + b.b5.toNat
        + b.b6.toNat + b.b7.toNat) % 256 ∧
      t.txf = s.txf ∧ t.rval = s.rval ∧ t.stat = s.stat ∧ t.outc = s.outc ∧
      t.host = s.host ∧ t.resets = s.resets

/-- R61. The normative form is the low eight bits of the sum of naturals; the accumulator through the
carry-discard adder gives the same byte for every input. -/
def Obligations.AdderFormEqualsModularSum : Prop :=
  ∀ b : Bytes8,
    (sum8 b).toNat = ((bytes8List b).map BitVec.toNat).sum % 256 ∧ sum8Adder b = sum8 b

/-- R64. After any `ENCODE` byte 8 is the checksum of bytes 0 to 7, and `CHECKSUM` of those eight bytes
issued next writes `CSUM` equal to byte 8. -/
def Obligations.FrameCarriesItsChecksum : Prop :=
  ∀ (cmd addr typ bank : Byte) (value : Word) (s : State),
    ∃ t u, exec (.encode cmd addr typ bank value) s = .next t ∧
      t.txf.f8 = sum8 (frameSpan t.txf) ∧
      exec (.checksum (frameSpan t.txf)) t = .next u ∧ u.csum = t.txf.f8

/-- R65. Replacing one of the eight bytes `b` by `v` moves the checksum by `v - b` modulo 256, so every
real change of one byte changes it; two changes whose differences add to 0 leave it the same. -/
def Obligations.SingleByteChangeShiftsChecksum : Prop :=
  ∀ (b : Bytes8) (i : Fin 8) (v : Byte),
    ((sum8 (bytes8Set b i v)).toNat : Int)
        = ((sum8 b).toNat + v.toNat - (bytes8Get b i).toNat : Int) % 256 ∧
    (v ≠ bytes8Get b i → sum8 (bytes8Set b i v) ≠ sum8 b) ∧
    ∀ (j : Fin 8) (w : Byte), i ≠ j →
      ((v.toNat - (bytes8Get b i).toNat : Int) + (w.toNat - (bytes8Get b j).toNat : Int)) % 256 = 0 →
      sum8 (bytes8Set (bytes8Set b i v) j w) = sum8 b

/-- R66. Any permutation of the eight bytes has the same checksum, and byte 8 of a frame is never an
input. -/
def Obligations.ChecksumIgnoresByteOrder : Prop :=
  (∀ b c : Bytes8, (bytes8List b).Perm (bytes8List c) → sum8 b = sum8 c) ∧
  ∀ (f : Frame) (k : Byte), sum8 (frameSpan (Frame.mk f.f0 f.f1 f.f2 f.f3 f.f4 f.f5 f.f6 f.f7 k))
    = sum8 (frameSpan f)

/-- R124. Passing the address first builds a frame with the two bytes crossed and a correct
checksum. -/
def Obligations.SwappedOperandsKeepValidChecksum : Prop :=
  ∀ (cmd addr typ bank : Byte) (value : Word) (s : State),
    ∃ t u, exec (.encode cmd addr typ bank value) s = .next t ∧
      exec (.encode addr cmd typ bank value) s = .next u ∧
      t.txf.f1 = cmd ∧ t.txf.f0 = addr ∧
      u.txf.f0 = cmd ∧ u.txf.f1 = addr ∧ u.txf.f8 = sum8 (frameSpan u.txf) ∧
      u.txf.f8 = t.txf.f8

/-! ### The marshaller -/

/-- R75 with R60. The unpacked pattern is `b0*2^24 + b1*2^16 + b2*2^8 + b3`, signed by its first byte,
and the two directions are inverse on all 32-bit patterns and on all four bytes. -/
def Obligations.MarshallersAreInverse : Prop :=
  (∀ b : Bytes4,
    (be32Unpack b).toNat =
      b.d0.toNat * 2 ^ 24 + b.d1.toNat * 2 ^ 16 + b.d2.toNat * 2 ^ 8 + b.d3.toNat ∧
    (be32Unpack b).toInt =
      (if b.d0.toNat < 128 then ((be32Unpack b).toNat : Int)
       else ((be32Unpack b).toNat : Int) - 2 ^ 32)) ∧
  (∀ u : Word, be32Unpack (be32Pack u) = u) ∧
  ∀ b : Bytes4, be32Pack (be32Unpack b) = b

/-- R67. After `ENCODE` with value `v`, `DECODE_VALUE 4` of bytes 4 to 7 of `TXF` writes `RVAL = v`. -/
def Obligations.ValueRoundTrip : Prop :=
  ∀ (cmd addr typ bank : Byte) (v : Int) (s : State), -2147483648 ≤ v → v ≤ 2147483647 →
    ∃ t u, exec (.encode cmd addr typ bank (BitVec.ofInt 32 v)) s = .next t ∧
      (be32Unpack (frameValueBytes t.txf)).toInt = v ∧
      exec (.decodeValue 4#4 (frameValueBytes t.txf)) t = .next u ∧ u.readValue = v

/-- R83. `ENCODE` of the value that four bytes decode to writes those four bytes. -/
def Obligations.UnpackThenPackRoundTrip : Prop :=
  ∀ (cmd addr typ bank : Byte) (b : Bytes4) (s : State),
    ∃ t u, exec (.decodeValue 4#4 b) s = .next t ∧
      exec (.encode cmd addr typ bank (BitVec.ofInt 32 t.readValue)) t = .next u ∧
      frameValueBytes u.txf = b

/-! ### The unpacking side -/

/-- R76. For all operands and every state `DECODE_VALUE` (`OP` 2) completes; with `LEN` 4 `RVAL` is the
signed big-endian value of the lanes, with any other `LEN` it is 0, and nothing else changes. -/
def Obligations.DecodeValueFourBytesOrZero : Prop :=
  ∀ (len : BitVec 4) (d : Bytes4) (s : State),
    (encode (.decodeValue len d)).op.toNat = 2 ∧
    ∃ t, exec (.decodeValue len d) s = .next t ∧
      t.readValue = (if len.toNat = 4 then
        s32 (d.d0.toNat * 2 ^ 24 + d.d1.toNat * 2 ^ 16 + d.d2.toNat * 2 ^ 8 + d.d3.toNat) else 0) ∧
      t.txf = s.txf ∧ t.csum = s.csum ∧ t.stat = s.stat ∧ t.outc = s.outc ∧
      t.host = s.host ∧ t.resets = s.resets

/-- R77. For every frame and state `UNPACK_S` (`OP` 3) completes; `STAT` is byte 2 and nothing else
changes; `RVAL` keeps what it held. -/
def Obligations.UnpackStatusOnly : Prop :=
  ∀ (f : Frame) (s : State),
    (encode (.unpackS f)).op.toNat = 3 ∧
    ∃ t, exec (.unpackS f) s = .next t ∧ t.stat = f.f2 ∧
      t.txf = s.txf ∧ t.csum = s.csum ∧ t.rval = s.rval ∧ t.outc = s.outc ∧
      t.host = s.host ∧ t.resets = s.resets

/-- R78. For every frame and state `UNPACK_SV` (`OP` 4) completes; `STAT` is byte 2, `RVAL` is the signed
big-endian value of bytes 4 to 7, whatever the status is, and nothing else changes. -/
def Obligations.UnpackStatusAndValue : Prop :=
  ∀ (f : Frame) (s : State),
    (encode (.unpackSV f)).op.toNat = 4 ∧
    ∃ t, exec (.unpackSV f) s = .next t ∧ t.stat = f.f2 ∧
      t.readValue =
        s32 (f.f4.toNat * 2 ^ 24 + f.f5.toNat * 2 ^ 16 + f.f6.toNat * 2 ^ 8 + f.f7.toNat) ∧
      t.txf = s.txf ∧ t.csum = s.csum ∧ t.outc = s.outc ∧
      t.host = s.host ∧ t.resets = s.resets

/-- R79. `UNPACK_SV` leaves the `RVAL` of `DECODE_VALUE 4, [f4, f5, f6, f7]` and the `STAT` of `UNPACK_S`;
the two unpack operations differ only in whether `RVAL` is written. -/
def Obligations.UnpackVariantsAgree : Prop :=
  ∀ (f : Frame) (s : State),
    ∃ t u v, exec (.unpackSV f) s = .next t ∧
      exec (.decodeValue 4#4 (Bytes4.mk f.f4 f.f5 f.f6 f.f7)) s = .next u ∧
      exec (.unpackS f) s = .next v ∧
      t.rval = u.rval ∧ t.stat = v.stat ∧ v.rval = s.rval ∧ v.writeRval t.rval = t

/-- R55. Lanes an operation does not read have no effect: all of `D` when `LEN` is not 4; every byte but
byte 2 for `UNPACK_S`; bytes 0, 1, 3 and 8 for `UNPACK_SV`. -/
def Obligations.UnreadLanesHaveNoEffect : Prop :=
  (∀ (len : BitVec 4) (d e : Bytes4) (s : State), len.toNat ≠ 4 →
    exec (.decodeValue len d) s = exec (.decodeValue len e) s) ∧
  (∀ (f g : Frame) (s : State), f.f2 = g.f2 → exec (.unpackS f) s = exec (.unpackS g) s) ∧
  ∀ (f g : Frame) (s : State), f.f2 = g.f2 → f.f4 = g.f4 → f.f5 = g.f5 → f.f6 = g.f6 →
    f.f7 = g.f7 → exec (.unpackSV f) s = exec (.unpackSV g) s

/-- R122. A wrong `LEN` and four true zeros leave the same state. -/
def Obligations.SentinelEqualsTrueZero : Prop :=
  ∀ (len : BitVec 4) (d : Bytes4) (s : State), len.toNat ≠ 4 →
    ∃ t, exec (.decodeValue len d) s = .next t ∧
      exec (.decodeValue 4#4 (Bytes4.mk 0#8 0#8 0#8 0#8)) s = .next t

/-- R76 and D5. However the host presents a slice of any length, the result is the source's
`decode_value` of that slice: its value when it has four bytes, else 0; every slice can be presented. -/
def Obligations.EverySliceDecodesAsSource : Prop :=
  (∀ (bs : List Byte) (len : BitVec 4) (d : Bytes4) (s : State), presentsSlice bs len d = true →
    ∃ t, exec (.decodeValue len d) s = .next t ∧ t.rval = decodeSlice bs) ∧
  ∀ bs : List Byte, ∃ len d, presentsSlice bs len d = true

/-! ### The status decoder -/

/-- R91. For every code and state `INTERPRET_STATUS` (`OP` 5) completes; `OUTC` is the table's code for
the signed value of `CODE`, 8 for every unmapped one, and nothing else changes. -/
def Obligations.InterpretStatusFollowsTable : Prop :=
  ∀ (code : Word) (s : State),
    (encode (.interpretStatus code)).op.toNat = 5 ∧
    ∃ t, exec (.interpretStatus code) s = .next t ∧
      t.outc.toNat =
        (if s32 code.toNat = 100 then 0 else if s32 code.toNat = 101 then 1
         else if s32 code.toNat = 1 then 2 else if s32 code.toNat = 2 then 3
         else if s32 code.toNat = 3 then 4 else if s32 code.toNat = 4 then 5
         else if s32 code.toNat = 5 then 6 else if s32 code.toNat = 6 then 7 else 8) ∧
      t.txf = s.txf ∧ t.csum = s.csum ∧ t.rval = s.rval ∧ t.stat = s.stat ∧
      t.host = s.host ∧ t.resets = s.resets

/-- R92. All 32 bits are compared: exactly the eight listed patterns, no two of them equal, give an
outcome other than Unknown. -/
def Obligations.ExactlyEightCodesAreNamed : Prop :=
  (([100, 101, 1, 2, 3, 4, 5, 6] : List Nat).map (BitVec.ofNat 32)).Nodup ∧
  ∀ (code : Word) (s : State), ∃ t, exec (.interpretStatus code) s = .next t ∧
    (t.outc ≠ 8#4 ↔ code ∈ ([100, 101, 1, 2, 3, 4, 5, 6] : List Nat).map (BitVec.ofNat 32))

/-- R80. After either unpack the integer status code `zext_32(STAT)` is the unsigned value of byte 2,
0 to 255, never negative. -/
def Obligations.StatusCodeIsUnsigned : Prop :=
  ∀ (f : Frame) (s : State),
    ∃ t u, exec (.unpackS f) s = .next t ∧ exec (.unpackSV f) s = .next u ∧
      (zext32 t.stat).toInt = f.f2.toNat ∧ (zext32 u.stat).toInt = f.f2.toNat ∧
      0 ≤ (zext32 t.stat).toInt ∧ (zext32 t.stat).toInt ≤ 255

/-- R94. Unpacking a response and interpreting `zext_32(STAT)` writes the outcome of its byte 2: one of
the eight named ones for the eight listed bytes, Unknown for every other. -/
def Obligations.ResponseStatusToOutcome : Prop :=
  ∀ (f : Frame) (s : State),
    ∃ t u t' u', exec (.unpackS f) s = .next t ∧
      exec (.interpretStatus (zext32 t.stat)) t = .next u ∧
      exec (.unpackSV f) s = .next t' ∧
      exec (.interpretStatus (zext32 t'.stat)) t' = .next u' ∧
      u'.outc = u.outc ∧
      u.readOutcome = some
        (match f.f2.toNat with
         | 100 => .success
         | 101 => .commandLoaded
         | 1 => .incorrectChecksum
         | 2 => .invalidCommand
         | 3 => .wrongType
         | 4 => .invalidValue
         | 5 => .eepromLocked
         | 6 => .commandNotAvailable
         | _ => .unknown)

/-! ### Rules over all operations -/

/-- R3 and R100. Every operation completes in every state, with every operand. -/
def Obligations.EveryOperationCompletes : Prop :=
  ∀ (i : Instr) (s : State), ∃ t, exec i s = .next t

/-- The table of R10 with R12, R13, R14 and R15. Each register is written only by its operations:
`TXF` by `ENCODE`, `CSUM` by `CHECKSUM`, `RVAL` by `DECODE_VALUE` and `UNPACK_SV`, `STAT` by the two unpack
operations, `OUTC` by `INTERPRET_STATUS`, which writes one of the codes 0 to 8. -/
def Obligations.RegistersChangeOnlyByTheirWriters : Prop :=
  ∀ (i : Instr) (s : State), ∃ t, exec i s = .next t ∧
    (t.txf = s.txf ∨ ∃ cmd addr typ bank value, i = .encode cmd addr typ bank value) ∧
    (t.csum = s.csum ∨ ∃ b, i = .checksum b) ∧
    (t.rval = s.rval ∨ (∃ len d, i = .decodeValue len d) ∨ ∃ f, i = .unpackSV f) ∧
    (t.stat = s.stat ∨ ((∃ f, i = .unpackS f) ∨ ∃ f, i = .unpackSV f)) ∧
    (t.outc = s.outc ∨ ((∃ code, i = .interpretStatus code) ∧ t.outc.toNat ≤ 8))

/-- R2. In any two states an operation leaves the same values in the registers it writes (the table of
R10), and in each of them every other register as it was. -/
def Obligations.ResultsDependOnOperandsOnly : Prop :=
  ∀ (i : Instr) (s u : State), ∃ t v, exec i s = .next t ∧ exec i u = .next v ∧
    ∀ r : Reg, (writes i r = true → t.read r = v.read r) ∧
      (writes i r = false → t.read r = s.read r ∧ v.read r = u.read r)

/-- R31. An operation issued twice leaves the state of one issue. -/
def Obligations.OperationsAreIdempotent : Prop :=
  ∀ (i : Instr) (s : State), ∃ t, exec i s = .next t ∧ exec i t = .next t

/-! ### Requests, steps and runs -/

/-- R42. The 72-bit view has byte `i` of a frame in bits `71 - 8i` down to `64 - 8i`, and a frame and
its view determine each other. -/
def Obligations.FrameViewIsPositional : Prop :=
  (∀ f : Frame, f.view72.toNat =
    f.f0.toNat * 2 ^ 64 + f.f1.toNat * 2 ^ 56 + f.f2.toNat * 2 ^ 48 + f.f3.toNat * 2 ^ 40
      + f.f4.toNat * 2 ^ 32 + f.f5.toNat * 2 ^ 24 + f.f6.toNat * 2 ^ 16 + f.f7.toNat * 2 ^ 8
      + f.f8.toNat) ∧
  (∀ f : Frame, Frame.ofView72 f.view72 = f) ∧
  ∀ v : BitVec 72, (Frame.ofView72 v).view72 = v

/-- Every operation, with every operand at every value, is decoded from the request that presents it.
The lane layout is the model's choice (log 7). -/
def Obligations.DecodeOfEncodeIsIdentity : Prop :=
  ∀ i : Instr, decode (encode i) = .ok i

/-- The other direction: what a request decodes to is presented by the same `OP` and the same lines, up
to the lines the operation does not use (log 7, 8). -/
def Obligations.EncodeOfDecodeKeepsUsedLines : Prop :=
  ∀ (r : Request) (i : Instr), decode r = .ok i →
    (encode i).op = r.op ∧ (encode i).lanes.toNat = r.lanes.toNat % 2 ^ operandBits i

/-- Requests of 95_test_vectors.md part 3, each written out as `OP` and operands in hexadecimal, decode
to the operation they stand for. The lane layout is the model's choice (log 7). -/
def Obligations.WrittenOutRequestsDecode : Prop :=
  decode (Request.mk 0b000#3 0x09010100000003E8#72)
      = .ok (.encode 0x09#8 0x01#8 0x01#8 0x00#8 0x000003E8#32) ∧
  decode (Request.mk 0b001#3 0x01066400FFFF3800#72)
      = .ok (.checksum (Bytes8.mk 0x01#8 0x06#8 0x64#8 0x00#8 0xFF#8 0xFF#8 0x38#8 0x00#8)) ∧
  decode (Request.mk 0b010#3 0x480000000#72)
      = .ok (.decodeValue 4#4 (Bytes4.mk 0x80#8 0x00#8 0x00#8 0x00#8)) ∧
  decode (Request.mk 0b011#3 0x01096400000000006E#72)
      = .ok (.unpackS (Frame.mk 0x01#8 0x09#8 0x64#8 0x00#8 0x00#8 0x00#8 0x00#8 0x00#8 0x6E#8)) ∧
  decode (Request.mk 0b100#3 0x01066400FFFF3800A1#72)
      = .ok (.unpackSV (Frame.mk 0x01#8 0x06#8 0x64#8 0x00#8 0xFF#8 0xFF#8 0x38#8 0x00#8 0xA1#8)) ∧
  decode (Request.mk 0b101#3 0x00000064#72) = .ok (.interpretStatus 0x64#32)

/-- R47 and R108. A request with `OP` 6 or 7, whatever its lines carry, is refused in every state. A request
with one of the six values of R44 answers a next state (R3), with that move taken. The model's choice: the
host's moves are a list (log 3), and the refusal has a name and no next state (log 9). -/
def Obligations.ReservedOpGetsNoStep : Prop :=
  ∀ (s : State) (r : Request) (ms : List HostMove), s.host = .request r :: ms →
    ((r.op.toNat = 6 ∨ r.op.toNat = 7) → step s = .refused (.reservedOp r.op)) ∧
    (r.op.toNat ≤ 5 → ∃ t, step s = .next t ∧ t.host = ms)

/-- A step runs the operation the host presents, with that move taken and the host's later moves and
all registers as they stand (R4, R43; log 3). -/
def Obligations.StepRunsPresentedOperation : Prop :=
  ∀ (s : State) (r : Request) (ms : List HostMove) (i : Instr),
    s.host = .request r :: ms → decode r = .ok i → step s = exec i (s.setHost ms)

/-- With nothing presented a step leaves the state as it is (log 5; the host's moves as a list: log 3).
The model's choice. -/
def Obligations.IdleStepChangesNothing : Prop :=
  ∀ s : State, s.host = [] → step s = .next s

/-- R115 and R116 as the model takes them: a reset is a step of its own between two others. The model's
choice: it gives all five registers free values (log 1) of a fresh draw (log 2), the host's moves are a
list (log 3), and it leaves the host's later moves (log 6). -/
def Obligations.ResetIsAStepOfItsOwn : Prop :=
  ∀ (s : State) (ms : List HostMove), s.host = .reset :: ms →
    ∃ t, step s = .next t ∧ t.host = ms ∧ t.resets = s.resets + 1 ∧
      t.txf = Config.resetTxf t.resets ∧ t.csum = Config.resetCsum t.resets ∧
      t.rval = Config.resetRval t.resets ∧ t.stat = Config.resetStat t.resets ∧
      t.outc = Config.resetOutc t.resets

/-- R117 as the model takes it. As the first request after reset an operation writes what it writes in
any state. That the two moves stand in a list of the host's (log 3), and that the reset leaves the request
which follows it (log 6), is the model's choice. -/
def Obligations.FirstRequestAfterResetIsFull : Prop :=
  ∀ (i : Instr) (s u : State),
    ∃ t v, runSteps 2 (s.setHost [.reset, .request (encode i)]) = .next t ∧
      exec i u = .next v ∧ ∀ r : Reg, writes i r = true → t.read r = v.read r

/-- R15 over steps. `OUTC` names an outcome after every step that is not a reset if it did before. The
model's choice: the host's moves are a list (log 3), and a step with nothing presented leaves the state as
it is (log 5). -/
def Obligations.OutcStaysNamedBetweenResets : Prop :=
  ∀ s t : State, OutcNamed s → s.host.head? ≠ some .reset → step s = .next t → OutcNamed t

/-- A lawful host, one that uses only `OP` 0 to 5 as R118 assumes, stays lawful, and its step always
answers a next state. For a request this rests on R3 and R100. The rest is the model's choice: the host's
moves stand in the state as a list (log 3), with nothing presented a step leaves the state as it is
(log 5), though R118 says that every step is caused by a request, and a reset leaves the host's later
moves (log 6). -/
def Obligations.LawfulHostIsKeptByEveryStep : Prop :=
  ∀ s : State, LawfulHost s → ∃ t, step s = .next t ∧ LawfulHost t

/-- The host of the reset state, which has presented nothing (log 3), is lawful. -/
def Obligations.LawfulHostHoldsAtReset : Prop :=
  LawfulHost State.reset ∧ State.reset.host = []

/-- R3, R100 and R108 over runs: from every state a run of `k` steps goes through exactly when the
host's first `k` moves are lawful; otherwise it ends at the first reserved `OP`, and never in a fault.
The model's choice: the host's moves are a list (log 3), steps beyond the list leave the state as it is
(log 5), a reset leaves the later moves (log 6), and a refused request ends the run (log 9). -/
def Obligations.RunStopsOnlyAtReservedOp : Prop :=
  ∀ (k : Nat) (s : State),
    ((∃ t, runSteps k s = .next t) ↔ (s.host.take k).all lawfulMove = true) ∧
    ((s.host.take k).all lawfulMove = false →
      ∃ r : Request, (s.host.take k).find? (fun m => !lawfulMove m) = some (.request r) ∧
        runSteps k s = .refused (.reservedOp r.op))

/-- R18 with R33, over runs. From every state, when a lawful host has made all its moves, in order, each
register holds what the last move that sets it gave it (an operation of its row in R10, or a reset), and
what it held at first if there is none. The model's choice: the contents after a reset are free values
(log 1), numbered by the counter `resets` (log 2), the host's moves are a list (log 3), and a reset leaves
the later ones (log 6). R18 says nothing of draws. -/
def Obligations.RegistersHoldTheLastWrite : Prop :=
  ∀ s : State, LawfulHost s → ∃ t, runSteps s.host.length s = .next t ∧
    t.host = [] ∧ t.resets = s.resets + resetCount s.host ∧
    t.txf = txfSetBy (lastSetting .txf s.host) t.resets s.txf ∧
    t.csum = csumSetBy (lastSetting .csum s.host) t.resets s.csum ∧
    t.rval = rvalSetBy (lastSetting .rval s.host) t.resets s.rval ∧
    t.stat = statSetBy (lastSetting .stat s.host) t.resets s.stat ∧
    t.outc = outcSetBy (lastSetting .outc s.host) t.resets s.outc

/-- One step of `RunStopsOnlyAtReservedOp`: from every state a step answers a next state exactly when the
host's next move is lawful or there is none, and a request with a reserved `OP` is refused by name
(R3, R100, R108). The model's choice: the host's moves are a list (log 3), a step with nothing presented
answers a next state (log 5), and a refused request has none (log 9). -/
def Obligations.StepAnswersNextOnLawfulMove : Prop :=
  ∀ s : State,
    ((∃ t, step s = .next t) ↔ s.host.head?.all lawfulMove = true) ∧
    ∀ r : Request, s.host.head? = some (.request r) → lawfulMove (.request r) = false →
      step s = .refused (.reservedOp r.op)

/-- One step of `RegistersHoldTheLastWrite`: from every state whose host's next move is lawful or absent,
each register after the step is what that move gives it (the result of an operation of its row in R10,
or the contents after a reset), and otherwise what it held (R18). The model's choice: the contents after a
reset are free values (log 1), numbered by the counter `resets` (log 2), the host's moves are a list
(log 3), a step with nothing presented changes nothing (log 5), and a reset leaves the later moves
(log 6). -/
def Obligations.StepSetsRegistersAsItsMove : Prop :=
  ∀ s : State, s.host.head?.all lawfulMove = true → ∃ t, step s = .next t ∧
    t.host = s.host.tail ∧
    t.resets = s.resets + (if s.host.head? = some .reset then 1 else 0) ∧
    t.txf = txfSetBy s.host.head? t.resets s.txf ∧
    t.csum = csumSetBy s.host.head? t.resets s.csum ∧
    t.rval = rvalSetBy s.host.head? t.resets s.rval ∧
    t.stat = statSetBy s.host.head? t.resets s.stat ∧
    t.outc = outcSetBy s.host.head? t.resets s.outc

/-! ### The host's side -/

/-- R29 and R52. Byte `i` of a frame is the `i`-th on the transport, both ways, and exactly the nine-byte
sequences become a frame; there is no byte 9 (R25). -/
def Obligations.TransportOrderIsAscending : Prop :=
  (∀ (f : Frame) (i : Nat), (frameToWire f)[i]? = frameByteAt f i) ∧
  (∀ (bs : List Byte) (f : Frame), frameOfWire bs = some f ↔ frameToWire f = bs) ∧
  ∀ bs : List Byte, (frameOfWire bs).isSome = decide (bs.length = 9)

/-- R46 and D16. A harness with wide integers presents a request exactly when every operand is in range,
and each operand then stands at its port with the same integer value. Lanes missing from a short list
are free (log 12). -/
def Obligations.HarnessRefusesOutOfRange : Prop :=
  (∀ w : WideRequest, (instrOfWide w).isSome = w.wellFormed) ∧
  ∀ (w : WideRequest) (i : Instr), instrOfWide w = some i →
    match w with
    | .encode cmd addr typ bank value => ∃ (c a t b : Byte) (v : Word), i = .encode c a t b v ∧
        (c.toNat : Int) = cmd ∧ (a.toNat : Int) = addr ∧ (t.toNat : Int) = typ ∧
        (b.toNat : Int) = bank ∧ v.toInt = value
    | .checksum bs => ∃ b, i = .checksum b ∧ (bytes8List b).map (fun x => (x.toNat : Int)) = bs
    | .decodeValue len ds => ∃ l d, i = .decodeValue l d ∧ (l.toNat : Int) = len ∧
        ds <+: [d.d0, d.d1, d.d2, d.d3].map (fun x => (x.toNat : Int))
    | .unpackS bs => ∃ f, i = .unpackS f ∧ (frameToWire f).map (fun x => (x.toNat : Int)) = bs
    | .unpackSV bs => ∃ f, i = .unpackSV f ∧ (frameToWire f).map (fun x => (x.toNat : Int)) = bs
    | .interpretStatus code => ∃ c, i = .interpretStatus c ∧ c.toInt = code

/-- R53 with R17. A line of a listing that names an operation in state `s` is issued by presenting it
next: reading the registers it names changes none, and the step that follows runs that operation. The
model's choice: the host's moves are a list (log 3), the request's lane layout (log 7), which registers a
line may name (log 13), and a read that is no step (log 17). -/
def Obligations.IssuedLineRunsItsOperation : Prop :=
  ∀ (s : State) (l : AsmLine) (i : Instr), instrOfLine s l = some i →
    ∃ t, issueLine s l = some t ∧ (∀ r : Reg, t.read r = s.read r) ∧ step t = exec i s
end

