-- ==== Sys2Proof/Laws/State.lean ====
section
/-! SUPPORT. One lemma per field per update of the state, and what a host read sees of an update. -/

namespace Sys2Proof.Machine

section
variable (s : State) (f : Frame) (b : Byte) (v : Word) (o : Outcome) (ms : List HostMove)

@[simp] theorem State.writeTxf_txf : (s.writeTxf f).txf = f := rfl
@[simp] theorem State.writeTxf_csum : (s.writeTxf f).csum = s.csum := rfl
@[simp] theorem State.writeTxf_rval : (s.writeTxf f).rval = s.rval := rfl
@[simp] theorem State.writeTxf_stat : (s.writeTxf f).stat = s.stat := rfl
@[simp] theorem State.writeTxf_outc : (s.writeTxf f).outc = s.outc := rfl
@[simp] theorem State.writeTxf_host : (s.writeTxf f).host = s.host := rfl
@[simp] theorem State.writeTxf_resets : (s.writeTxf f).resets = s.resets := rfl

@[simp] theorem State.writeCsum_txf : (s.writeCsum b).txf = s.txf := rfl
@[simp] theorem State.writeCsum_csum : (s.writeCsum b).csum = b := rfl
@[simp] theorem State.writeCsum_rval : (s.writeCsum b).rval = s.rval := rfl
@[simp] theorem State.writeCsum_stat : (s.writeCsum b).stat = s.stat := rfl
@[simp] theorem State.writeCsum_outc : (s.writeCsum b).outc = s.outc := rfl
@[simp] theorem State.writeCsum_host : (s.writeCsum b).host = s.host := rfl
@[simp] theorem State.writeCsum_resets : (s.writeCsum b).resets = s.resets := rfl

@[simp] theorem State.writeRval_txf : (s.writeRval v).txf = s.txf := rfl
@[simp] theorem State.writeRval_csum : (s.writeRval v).csum = s.csum := rfl
@[simp] theorem State.writeRval_rval : (s.writeRval v).rval = v := rfl
@[simp] theorem State.writeRval_stat : (s.writeRval v).stat = s.stat := rfl
@[simp] theorem State.writeRval_outc : (s.writeRval v).outc = s.outc := rfl
@[simp] theorem State.writeRval_host : (s.writeRval v).host = s.host := rfl
@[simp] theorem State.writeRval_resets : (s.writeRval v).resets = s.resets := rfl

@[simp] theorem State.writeStat_txf : (s.writeStat b).txf = s.txf := rfl
@[simp] theorem State.writeStat_csum : (s.writeStat b).csum = s.csum := rfl
@[simp] theorem State.writeStat_rval : (s.writeStat b).rval = s.rval := rfl
@[simp] theorem State.writeStat_stat : (s.writeStat b).stat = b := rfl
@[simp] theorem State.writeStat_outc : (s.writeStat b).outc = s.outc := rfl
@[simp] theorem State.writeStat_host : (s.writeStat b).host = s.host := rfl
@[simp] theorem State.writeStat_resets : (s.writeStat b).resets = s.resets := rfl

@[simp] theorem State.writeOutc_txf : (s.writeOutc o).txf = s.txf := rfl
@[simp] theorem State.writeOutc_csum : (s.writeOutc o).csum = s.csum := rfl
@[simp] theorem State.writeOutc_rval : (s.writeOutc o).rval = s.rval := rfl
@[simp] theorem State.writeOutc_stat : (s.writeOutc o).stat = s.stat := rfl
@[simp] theorem State.writeOutc_outc : (s.writeOutc o).outc = outcomeCode o := rfl
@[simp] theorem State.writeOutc_host : (s.writeOutc o).host = s.host := rfl
@[simp] theorem State.writeOutc_resets : (s.writeOutc o).resets = s.resets := rfl

@[simp] theorem State.setHost_txf : (s.setHost ms).txf = s.txf := rfl
@[simp] theorem State.setHost_csum : (s.setHost ms).csum = s.csum := rfl
@[simp] theorem State.setHost_rval : (s.setHost ms).rval = s.rval := rfl
@[simp] theorem State.setHost_stat : (s.setHost ms).stat = s.stat := rfl
@[simp] theorem State.setHost_outc : (s.setHost ms).outc = s.outc := rfl
@[simp] theorem State.setHost_host : (s.setHost ms).host = ms := rfl
@[simp] theorem State.setHost_resets : (s.setHost ms).resets = s.resets := rfl
@[simp] theorem State.setHost_setHost (ns : List HostMove) :
    (s.setHost ms).setHost ns = s.setHost ns := rfl
@[simp] theorem State.setHost_self : s.setHost s.host = s := rfl

@[simp] theorem State.takeReset_txf : s.takeReset.txf = Config.resetTxf (s.resets + 1) := rfl
@[simp] theorem State.takeReset_csum : s.takeReset.csum = Config.resetCsum (s.resets + 1) := rfl
@[simp] theorem State.takeReset_rval : s.takeReset.rval = Config.resetRval (s.resets + 1) := rfl
@[simp] theorem State.takeReset_stat : s.takeReset.stat = Config.resetStat (s.resets + 1) := rfl
@[simp] theorem State.takeReset_outc : s.takeReset.outc = Config.resetOutc (s.resets + 1) := rfl
@[simp] theorem State.takeReset_host : s.takeReset.host = s.host := rfl
@[simp] theorem State.takeReset_resets : s.takeReset.resets = s.resets + 1 := rfl

@[simp] theorem State.present_host (m : HostMove) : (s.present m).host = m :: s.host := rfl

@[simp] theorem State.read_txf : s.read .txf = s.txf.view72 := rfl
@[simp] theorem State.read_csum : s.read .csum = s.csum := rfl
@[simp] theorem State.read_rval : s.read .rval = s.rval := rfl
@[simp] theorem State.read_stat : s.read .stat = s.stat := rfl
@[simp] theorem State.read_outc : s.read .outc = s.outc := rfl

end

/-- What the host still does is no part of what it reads. -/
@[simp] theorem State.read_setHost (s : State) (ms : List HostMove) (r : Reg) :
    (s.setHost ms).read r = s.read r := by cases r <;> rfl

/-- The result registers and the two fields of the model's own are all there is of a state. -/
theorem State.ext_fields {s t : State} (h1 : s.txf = t.txf) (h2 : s.csum = t.csum)
    (h3 : s.rval = t.rval) (h4 : s.stat = t.stat) (h5 : s.outc = t.outc) (h6 : s.host = t.host)
    (h7 : s.resets = t.resets) : s = t := by
  cases s
  cases t
  simp_all

end Sys2Proof.Machine
end

