-- ==== Sys2Proof/Laws/Ops.lean ====
section
/-! SUPPORT. What each shared operation can do, said once, for proofs to cite. -/

namespace Sys2Proof.Machine

/-! ### The marshaller and the checksum, over the natural numbers -/

/-- The four bytes of a pattern, as numbers. -/
theorem be32Pack_toNat (u : Word) :
    (be32Pack u).d0.toNat = u.toNat / 16777216 ∧ (be32Pack u).d1.toNat = u.toNat / 65536 % 256 ∧
    (be32Pack u).d2.toNat = u.toNat / 256 % 256 ∧ (be32Pack u).d3.toNat = u.toNat % 256 := by
  have h : u.toNat < 4294967296 := u.isLt
  refine ⟨?_, ?_, ?_, ?_⟩ <;>
    simp only [be32Pack, BitVec.extractLsb'_toNat, Nat.shiftRight_eq_div_pow, Nat.reducePow,
      Nat.div_one]
  omega

/-- The pattern of four bytes, as a number. -/
theorem be32Unpack_toNat (b : Bytes4) :
    (be32Unpack b).toNat =
      b.d0.toNat * 16777216 + b.d1.toNat * 65536 + b.d2.toNat * 256 + b.d3.toNat := by
  have h0 := b.d0.isLt
  have h1 := b.d1.isLt
  have h2 := b.d2.isLt
  have h3 := b.d3.isLt
  simp only [be32Unpack, BitVec.toNat_append]
  rw [← Nat.shiftLeft_add_eq_or_of_lt h1, ← Nat.shiftLeft_add_eq_or_of_lt h2,
    ← Nat.shiftLeft_add_eq_or_of_lt h3]
  simp only [Nat.shiftLeft_eq]
  omega

/-- The checksum as a sum of bytes. -/
theorem sum8_eq_add (b : Bytes8) :
    sum8 b = b.b0 + b.b1 + b.b2 + b.b3 + b.b4 + b.b5 + b.b6 + b.b7 := by
  simp [sum8, BitVec.ofNat_add]

/-- The carry-discard adder is addition of bytes. -/
theorem addDiscardCarry_eq_add (a b : Byte) : addDiscardCarry a b = a + b := by
  have ha := a.isLt
  have hb := b.isLt
  apply BitVec.eq_of_toNat_eq
  simp only [addDiscardCarry, sum9, BitVec.extractLsb'_toNat, BitVec.toNat_add,
    BitVec.toNat_setWidth, Nat.shiftRight_zero]
  omega

/-! ### Taking the host's next move -/

/-- Nothing presented. -/
theorem fetch_nil {s : State} (h : s.host = []) : fetch s = .idle := by simp [fetch, h]

/-- A reset asserted. -/
theorem fetch_reset {s : State} {ms : List HostMove} (h : s.host = .reset :: ms) :
    fetch s = .reset (s.setHost ms) := by simp [fetch, h]

/-- A request of an operation presented. -/
theorem fetch_run {s : State} {ms : List HostMove} {r : Request} {i : Instr}
    (h : s.host = .request r :: ms) (hd : decode r = .ok i) : fetch s = .run i (s.setHost ms) := by
  simp [fetch, h, hd]

/-- A request with a reserved `OP` presented. -/
theorem fetch_reserved {s : State} {ms : List HostMove} {r : Request} {op : BitVec 3}
    (h : s.host = .request r :: ms) (hd : decode r = .error (.reservedOp op)) :
    fetch s = .reserved op := by
  simp [fetch, h, hd]

/-! ### Decoding -/

/-- `decode` answers an operation exactly on the six defined values of `OP`; otherwise it names the
reserved value. -/
theorem decode_cases (r : Request) :
    (r.op.toNat ≤ 5 ∧ ∃ i, decode r = .ok i) ∨
    (5 < r.op.toNat ∧ decode r = .error (.reservedOp r.op)) := by
  unfold decode
  split
  case _ h => exact .inl ⟨by omega, _, rfl⟩
  case _ h => exact .inl ⟨by omega, _, rfl⟩
  case _ h => exact .inl ⟨by omega, _, rfl⟩
  case _ h => exact .inl ⟨by omega, _, rfl⟩
  case _ h => exact .inl ⟨by omega, _, rfl⟩
  case _ h => exact .inl ⟨by omega, _, rfl⟩
  case _ h0 h1 h2 h3 h4 h5 =>
    simp only [imp_false] at h0 h1 h2 h3 h4 h5
    exact .inr ⟨by omega, rfl⟩

/-! ### What an operation does -/

/-- An operation answers a state with the host's moves and the draw counter as they were. -/
theorem exec_keeps_own_fields {i : Instr} {s t : State} (h : exec i s = .next t) :
    t.host = s.host ∧ t.resets = s.resets := by
  cases i <;> cases h <;> exact ⟨rfl, rfl⟩

end Sys2Proof.Machine
end

