-- ==== Sys2Proof/Laws/PerInstr.lean ====
section
/-! SUPPORT. What holds of every operation as syntax, one lemma per constructor: the request that
presents it carries a defined `OP` (30_encoding.md R44) and drives no line above its operands (R46). -/

def Sys2Proof.Laws.PortUse.Statement (i : Sys2Proof.Instr) : Prop :=
  (Sys2Proof.encode i).op.toNat ≤ 5 ∧
    (Sys2Proof.encode i).lanes.toNat < 2 ^ Sys2Proof.operandBits i

/-- A pattern widened to the 72 lines stays below its own width. -/
theorem Sys2Proof.Laws.widened_lt {w : Nat} (v : BitVec w) : (v.setWidth 72).toNat < 2 ^ w :=
  Nat.lt_of_le_of_lt (by simpa using Nat.mod_le _ _) v.isLt

theorem Sys2Proof.Laws.PortUse.encode (cmd addr typ bank : Sys2Proof.Byte)
    (value : Sys2Proof.Word) :
    Sys2Proof.Laws.PortUse.Statement (.encode cmd addr typ bank value) :=
  ⟨Nat.le_of_ble_eq_true rfl, Sys2Proof.Laws.widened_lt _⟩

theorem Sys2Proof.Laws.PortUse.checksum (b : Sys2Proof.Bytes8) :
    Sys2Proof.Laws.PortUse.Statement (.checksum b) :=
  ⟨Nat.le_of_ble_eq_true rfl, Sys2Proof.Laws.widened_lt _⟩

theorem Sys2Proof.Laws.PortUse.decodeValue (len : BitVec 4) (d : Sys2Proof.Bytes4) :
    Sys2Proof.Laws.PortUse.Statement (.decodeValue len d) :=
  ⟨Nat.le_of_ble_eq_true rfl, Sys2Proof.Laws.widened_lt _⟩

theorem Sys2Proof.Laws.PortUse.unpackS (f : Sys2Proof.Frame) :
    Sys2Proof.Laws.PortUse.Statement (.unpackS f) :=
  ⟨Nat.le_of_ble_eq_true rfl, f.view72.isLt⟩

theorem Sys2Proof.Laws.PortUse.unpackSV (f : Sys2Proof.Frame) :
    Sys2Proof.Laws.PortUse.Statement (.unpackSV f) :=
  ⟨Nat.le_of_ble_eq_true rfl, f.view72.isLt⟩

theorem Sys2Proof.Laws.PortUse.interpretStatus (code : Sys2Proof.Word) :
    Sys2Proof.Laws.PortUse.Statement (.interpretStatus code) :=
  ⟨Nat.le_of_ble_eq_true rfl, Sys2Proof.Laws.widened_lt _⟩
end

