-- ==== Sys2Proof/Laws/Step.lean ====
section
/-! SUPPORT. What a step can do, said once, and the run over steps. -/

namespace Sys2Proof.Machine

/-- What a step does, by what the host presents: nothing, a reset, an operation, or a reserved `OP`. -/
theorem step_cases (s : State) :
    (s.host = [] ∧ step s = .next s) ∨
    (∃ ms, s.host = .reset :: ms ∧ step s = .next (s.setHost ms).takeReset) ∨
    (∃ r ms i, s.host = .request r :: ms ∧ r.op.toNat ≤ 5 ∧ decode r = .ok i ∧
      step s = exec i (s.setHost ms)) ∨
    (∃ r ms, s.host = .request r :: ms ∧ 5 < r.op.toNat ∧ step s = .refused (.reservedOp r.op)) := by
  match h : s.host with
  | [] => exact .inl ⟨rfl, by simp [step, fetch_nil h]⟩
  | .reset :: ms => exact .inr (.inl ⟨ms, rfl, by simp [step, fetch_reset h]⟩)
  | .request r :: ms =>
    rcases decode_cases r with ⟨hop, i, hi⟩ | ⟨hop, he⟩
    · exact .inr (.inr (.inl ⟨r, ms, i, rfl, hop, hi, by simp [step, fetch_run h hi]⟩))
    · exact .inr (.inr (.inr ⟨r, ms, rfl, hop, by simp [step, fetch_reserved h he]⟩))

/-- One more step of a run. -/
theorem runSteps_succ (k : Nat) (s : State) :
    runSteps (k + 1) s =
      match step s with
      | .next t => runSteps k t
      | .fault r => .fault r
      | .refused r => .refused r := rfl

/-- A run of any machine goes on from the next state. -/
theorem run_of_step_next (M : Host.Core) {k : Nat} {s t : M.State} (h : M.step s = .next t) :
    M.run (k + 1) s = M.run k t := by simp [Host.Core.run, h]

/-- A run of any machine ends at a fault. -/
theorem run_of_step_fault (M : Host.Core) {k : Nat} {s : M.State} {r : M.Fault}
    (h : M.step s = .fault r) : M.run (k + 1) s = .fault r := by simp [Host.Core.run, h]

/-- A run of any machine ends at a refusal. -/
theorem run_of_step_refused (M : Host.Core) {k : Nat} {s : M.State} {r : M.Refusal}
    (h : M.step s = .refused r) : M.run (k + 1) s = .refused r := by simp [Host.Core.run, h]

/-- The run is the one of the host's interface. -/
theorem core_run_eq_runSteps (k : Nat) (s : State) :
    Host.Core.run Sys2Proof.core k s = runSteps k s := by
  induction k generalizing s with
  | zero => rfl
  | succ k ih =>
    rw [runSteps_succ]
    cases h : step s with
    | next t => exact (run_of_step_next Sys2Proof.core h).trans (ih t)
    | fault r => exact run_of_step_fault Sys2Proof.core h
    | refused r => exact run_of_step_refused Sys2Proof.core h

end Sys2Proof.Machine
end

