-- ==== Sys2Proof/Tests/Slice0.lean ====
section
/-! SUPPORT. Tests: expected results from spec/95_test_vectors.md (ids E, K, V, UP, I, X, P) or worked by
hand from the encodings of 30_encoding.md; the smoke test of the well-formedness check; and one witness
for each statement of Certificates/Slice0/Obligations.lean that has hypotheses. -/

namespace Sys2Proof.Tests
open Sys2Proof.Machine

/-- A state with every register at a value no test writes; `OUTC` holds a code that names no outcome. -/
def sample : State :=
  { txf := ⟨0x11#8, 0x12#8, 0x13#8, 0x14#8, 0x15#8, 0x16#8, 0x17#8, 0x18#8, 0x19#8⟩
    csum := 0x24#8, rval := 1000#32, stat := 0xEE#8, outc := 15#4, host := [], resets := 0 }

/-- The host of `sample` makes the moves `ms`. -/
def sampleWith (ms : List HostMove) : State := sample.setHost ms

/-- The next state of an outcome satisfies `p`. -/
def nextHas (o : Host.Outcome State Fault Refusal) (p : State → Bool) : Bool :=
  match o with
  | .next t => p t
  | .fault _ => false
  | .refused _ => false

/-! ### The operations -/

/-- E1, the source's example; `CSUM` stays (X9). -/
theorem test_encode_source_example :
    nextHas (exec (.encode 9#8 1#8 1#8 0#8 1000#32) sample) (fun t =>
      t.txf == ⟨0x01#8, 0x09#8, 0x01#8, 0x00#8, 0x00#8, 0x00#8, 0x03#8, 0xE8#8, 0xF6#8⟩ &&
        t.csum == 0x24#8) = true := by decide

/-- E6: a negative value, a checksum that wraps. -/
theorem test_encode_negative_value :
    nextHas (exec (.encode 5#8 1#8 4#8 0#8 (BitVec.ofInt 32 (-1000))) sample) (fun t =>
      t.txf == ⟨0x01#8, 0x05#8, 0x04#8, 0x00#8, 0xFF#8, 0xFF#8, 0xFC#8, 0x18#8, 0x1C#8⟩) = true := by
  decide

/-- K2: the largest sum; neither end-around carry nor complement nor exclusive-or. -/
theorem test_checksum_all_ones :
    nextHas (exec (.checksum ⟨255#8, 255#8, 255#8, 255#8, 255#8, 255#8, 255#8, 255#8⟩) sample)
      (fun t => t.csum == 0xF8#8) = true := by decide

/-- K9, by both forms of the generator. -/
theorem test_checksum_mixed_bytes :
    nextHas (exec (.checksum ⟨0xC8#8, 0x64#8, 0x32#8, 0x19#8, 0x0C#8, 0x06#8, 0x03#8, 0x01#8⟩) sample)
      (fun t => t.csum == 0x8D#8) = true ∧
    sum8Adder ⟨0xC8#8, 0x64#8, 0x32#8, 0x19#8, 0x0C#8, 0x06#8, 0x03#8, 0x01#8⟩ = 0x8D#8 := by decide

/-- V6 and V10: signed, and big-endian. -/
theorem test_decode_value_big_endian_signed :
    nextHas (exec (.decodeValue 4#4 ⟨0xFF#8, 0xFF#8, 0xFC#8, 0x18#8⟩) sample)
      (fun t => t.readValue == -1000) = true ∧
    nextHas (exec (.decodeValue 4#4 ⟨1#8, 2#8, 3#8, 4#8⟩) sample)
      (fun t => t.readValue == 16909060) = true := by decide

/-- V15: five bytes give the zero sentinel although the first four are a good value. -/
theorem test_decode_value_wrong_length :
    nextHas (exec (.decodeValue 5#4 ⟨1#8, 2#8, 3#8, 4#8⟩) sample) (fun t => t.readValue == 0) = true := by
  decide

/-- UP9 and X6: status byte `FF` is 255, and `RVAL` keeps the earlier 1000. -/
theorem test_unpack_s_unsigned_and_stale :
    nextHas (exec (.unpackS ⟨255#8, 255#8, 255#8, 255#8, 255#8, 255#8, 255#8, 255#8, 0xF8#8⟩) sample)
      (fun t => t.stat.toNat == 255 && t.readValue == 1000) = true := by decide

/-- UP13: a wrong checksum is unpacked all the same. -/
theorem test_unpack_sv_wrong_checksum :
    nextHas (exec (.unpackSV ⟨1#8, 6#8, 0x64#8, 0#8, 0#8, 0#8, 3#8, 0xE8#8, 0#8⟩)
      (sample.writeRval 7#32)) (fun t => t.stat == 100#8 && t.readValue == 1000) = true := by decide

/-- UP12: a negative value under an error status. -/
theorem test_unpack_sv_negative_value :
    nextHas (exec (.unpackSV ⟨1#8, 6#8, 3#8, 0#8, 0xFF#8, 0xFF#8, 0xFC#8, 0x18#8, 0x1C#8⟩) sample)
      (fun t => t.stat == 3#8 && t.readValue == -1000) = true := by decide

/-- I1 and I8: mapped codes. -/
theorem test_interpret_status_mapped :
    nextHas (exec (.interpretStatus 100#32) sample)
      (fun t => t.outc == 0#4 && t.readOutcome == some .success) = true ∧
    nextHas (exec (.interpretStatus 6#32) sample)
      (fun t => t.outc == 7#4 && t.readOutcome == some .commandNotAvailable) = true := by decide

/-- I17 and I22: low byte 100, yet Unknown. -/
theorem test_interpret_status_compares_all_bits :
    nextHas (exec (.interpretStatus 356#32) sample) (fun t => t.outc == 8#4) = true ∧
    nextHas (exec (.interpretStatus (BitVec.ofInt 32 (-156))) sample) (fun t => t.outc == 8#4) = true := by
  decide

/-! ### Decoding: words written out from 30_encoding.md R44, R46 and the encodings of P1 to P4 -/

/-- P1 step 1: `OP`=000 `CMD`=09 `ADDR`=01 `TYPE`=01 `BANK`=00 `VALUE`=000003E8. -/
theorem test_decode_encode :
    decode ⟨0b000#3, 0x09010100000003E8#72⟩ = .ok (.encode 9#8 1#8 1#8 0#8 1000#32) := by decide

/-- P2 step 2: `OP`=001 `B`=01 06 64 00 FF FF 38 00. -/
theorem test_decode_checksum :
    decode ⟨0b001#3, 0x01066400FFFF3800#72⟩ =
      .ok (.checksum ⟨1#8, 6#8, 0x64#8, 0#8, 0xFF#8, 0xFF#8, 0x38#8, 0#8⟩) := by decide

/-- P4 step 4: `OP`=010 `LEN`=3 `D`=80 00 00 xx. -/
theorem test_decode_decode_value :
    decode ⟨0b010#3, 0x380000055#72⟩ =
      .ok (.decodeValue 3#4 ⟨0x80#8, 0#8, 0#8, 0x55#8⟩) := by decide

/-- P4 step 5: `OP`=011 `F`=01 01 FF 00 12 34 56 78 15. -/
theorem test_decode_unpack_s :
    decode ⟨0b011#3, 0x0101FF001234567815#72⟩ =
      .ok (.unpackS ⟨1#8, 1#8, 0xFF#8, 0#8, 0x12#8, 0x34#8, 0x56#8, 0x78#8, 0x15#8⟩) := by decide

/-- P3 step 5: `OP`=100 `F`=01 05 64 00 00 00 03 E8 00. -/
theorem test_decode_unpack_sv :
    decode ⟨0b100#3, 0x01056400000003E800#72⟩ =
      .ok (.unpackSV ⟨1#8, 5#8, 0x64#8, 0#8, 0#8, 0#8, 3#8, 0xE8#8, 0#8⟩) := by decide

/-- P4 step 7: `OP`=101 `CODE`=FFFFFFFF. -/
theorem test_decode_interpret_status :
    decode ⟨0b101#3, 0xFFFFFFFF#72⟩ = .ok (.interpretStatus (BitVec.ofInt 32 (-1))) := by decide

/-- X1, X2: the two reserved values are rejected by name, `OP` 5 is not. -/
theorem test_decode_reserved :
    decode ⟨6#3, 0#72⟩ = .error (.reservedOp 6#3) ∧ decode ⟨7#3, 5#72⟩ = .error (.reservedOp 7#3) ∧
      decode ⟨5#3, 5#72⟩ = .ok (.interpretStatus 5#32) := by decide

/-- The six rows of spec/opcode_table.json: `OP` in the low three of the row's bits. -/
theorem test_table_words :
    decodeTableWord 8 0 = some (.encode 0#8 0#8 0#8 0#8 0#32) ∧
    decodeTableWord 8 5 = some (.interpretStatus 0#32) ∧ decodeTableWord 8 6 = none := by decide

/-! ### Steps -/

/-- From reset with a table word placed, the next step runs it. -/
theorem test_first_step_after_reset :
    nextHas (step (State.reset.withFetchWord 8 2)) (fun t => t.rval == 0#32 && t.host == []) = true := by
  decide

/-- A reserved `OP` gets no step. -/
theorem test_reserved_op_is_refused :
    step (sampleWith [.request ⟨6#3, 0#72⟩]) = .refused (.reservedOp 6#3) := rfl

/-- A reset takes the next free draw and leaves the host's later moves. -/
theorem test_reset_move :
    nextHas (step (sampleWith [.reset, .request ⟨1#3, 0#72⟩]))
      (fun t => t.resets == 1 && t.host == [.request ⟨1#3, 0#72⟩]) = true := by decide

/-! ### The harness with wide integers (R46, D16) and the assembly form (R53) -/

/-- X3 and the other byte operands of `ENCODE`: one off the range is refused, the range's ends are not. -/
theorem test_wf_encode_bytes :
    (WideRequest.encode 256 0 0 0 0).wellFormed = false ∧
    (WideRequest.encode 0 (-1) 0 0 0).wellFormed = false ∧
    (WideRequest.encode 0 0 256 0 0).wellFormed = false ∧
    (WideRequest.encode 0 0 0 (-1) 0).wellFormed = false ∧
    (WideRequest.encode 255 0 255 0 0).wellFormed = true := by decide

/-- The value of `ENCODE`: 32-bit two's complement. -/
theorem test_wf_encode_value :
    (WideRequest.encode 0 0 0 0 2147483648).wellFormed = false ∧
    (WideRequest.encode 0 0 0 0 (-2147483649)).wellFormed = false ∧
    (WideRequest.encode 0 0 0 0 (-2147483648)).wellFormed = true := by decide

/-- X4: `INTERPRET_STATUS` is not given 2^32 + 100 as 100. -/
theorem test_wf_code :
    (WideRequest.interpretStatus 4294967396).wellFormed = false ∧
    (WideRequest.interpretStatus 2147483647).wellFormed = true := by decide

/-- `CHECKSUM` takes exactly eight bytes. -/
theorem test_wf_checksum :
    (WideRequest.checksum [0, 0, 0, 0, 0, 0, 0]).wellFormed = false ∧
    (WideRequest.checksum [0, 0, 0, 0, 0, 0, 0, 256]).wellFormed = false ∧
    (WideRequest.checksum [0, 0, 0, 0, 0, 0, 0, 255]).wellFormed = true := by decide

/-- `DECODE_VALUE`: `LEN` is 0 to 15; four lanes, or `LEN` of them when `LEN` is less than 4. -/
theorem test_wf_decode_value :
    (WideRequest.decodeValue 16 [1, 2, 3, 4]).wellFormed = false ∧
    (WideRequest.decodeValue (-1) [1, 2, 3, 4]).wellFormed = false ∧
    (WideRequest.decodeValue 4 [1, 2, 3]).wellFormed = false ∧
    (WideRequest.decodeValue 3 [1, 2, 256]).wellFormed = false ∧
    (WideRequest.decodeValue 3 [1, 2, 3]).wellFormed = true ∧
    (WideRequest.decodeValue 0 []).wellFormed = true := by decide

/-- A frame operand is exactly nine bytes. -/
theorem test_wf_frames :
    (WideRequest.unpackS [1, 2, 3, 4, 5, 6, 7, 8]).wellFormed = false ∧
    (WideRequest.unpackSV [1, 2, 3, 4, 5, 6, 7, 8, 9, 10]).wellFormed = false ∧
    (WideRequest.unpackSV [1, 2, 3, 4, 5, 6, 7, 8, 9]).wellFormed = true := by decide

/-- The example lines of R53 with a sign, a hexadecimal number and a register. -/
theorem test_assembly_lines :
    (parseLine "ENCODE 5, 1, 4, 0, -1000".toList).bind (instrOfLine sample) =
      some (.encode 5#8 1#8 4#8 0#8 (BitVec.ofInt 32 (-1000))) ∧
    (parseLine "CHECKSUM [1, 9, 1, 0, 0, 0, 3, 0xE8]".toList).bind (instrOfLine sample) =
      some (.checksum ⟨1#8, 9#8, 1#8, 0#8, 0#8, 0#8, 3#8, 0xE8#8⟩) ∧
    (parseLine "INTERPRET_STATUS zext_32(STAT)".toList).bind (instrOfLine sample) =
      some (.interpretStatus 0xEE#32) := by decide

/-- `TXF[4..7]` as an operand: bytes 4, 5, 6 and 7 (P4 step 2). -/
theorem test_assembly_register_bytes :
    (parseLine "DECODE_VALUE 4, TXF[4..7]".toList).bind (instrOfLine sample) =
      some (.decodeValue 4#4 ⟨0x15#8, 0x16#8, 0x17#8, 0x18#8⟩) := by decide

/-! ### Witnesses for the hypotheses of the obligations -/

/-- A request of `CHECKSUM` with all-zero lanes. -/
def checksumRequest : Request := ⟨1#3, 0#72⟩

theorem witness_ValueRoundTrip :
    (-2147483648 : Int) ≤ -2147483648 ∧ (-2147483648 : Int) ≤ 2147483647 ∧
    (-2147483648 : Int) ≤ 2147483647 ∧ (2147483647 : Int) ≤ 2147483647 := by decide

/-- K5 with byte 7 changed, and with byte 0 changed back by as much. -/
theorem witness_SingleByteChangeShiftsChecksum :
    let b : Bytes8 := ⟨1#8, 9#8, 1#8, 0#8, 0#8, 0#8, 3#8, 0xE8#8⟩
    (0xE9#8 : Byte) ≠ bytes8Get b 7 ∧ (7 : Fin 8) ≠ 0 ∧
    (((0xE9#8 : Byte).toNat - (bytes8Get b 7).toNat : Int)
      + ((0x00#8 : Byte).toNat - (bytes8Get b 0).toNat : Int)) % 256 = 0 := by decide

/-- K10 and K11. -/
theorem witness_ChecksumIgnoresByteOrder :
    (bytes8List ⟨1#8, 2#8, 3#8, 4#8, 5#8, 6#8, 7#8, 8#8⟩).Perm
      (bytes8List ⟨8#8, 7#8, 6#8, 5#8, 4#8, 3#8, 2#8, 1#8⟩) := by decide

theorem witness_UnreadLanesHaveNoEffect_decode_value :
    (3#4 : BitVec 4).toNat ≠ 4 ∧ (15#4 : BitVec 4).toNat ≠ 4 := by decide

theorem witness_UnreadLanesHaveNoEffect_unpack_s :
    let f : Frame := ⟨1#8, 9#8, 100#8, 0#8, 0#8, 0#8, 0#8, 0#8, 0x6E#8⟩
    let g : Frame := ⟨2#8, 8#8, 100#8, 1#8, 1#8, 1#8, 1#8, 1#8, 0x00#8⟩
    f ≠ g ∧ f.f2 = g.f2 := by decide

theorem witness_UnreadLanesHaveNoEffect_unpack_sv :
    let f : Frame := ⟨1#8, 6#8, 100#8, 0#8, 0#8, 0#8, 3#8, 0xE8#8, 0x00#8⟩
    let g : Frame := ⟨2#8, 7#8, 100#8, 1#8, 0#8, 0#8, 3#8, 0xE8#8, 0x56#8⟩
    f ≠ g ∧ f.f2 = g.f2 ∧ f.f4 = g.f4 ∧ f.f5 = g.f5 ∧ f.f6 = g.f6 ∧ f.f7 = g.f7 := by decide

theorem witness_SentinelEqualsTrueZero : (3#4 : BitVec 4).toNat ≠ 4 ∧ (5#4 : BitVec 4).toNat ≠ 4 := by
  decide

/-- Slices of 0, 4, 15 and 16 bytes. -/
theorem witness_EverySliceDecodesAsSource :
    presentsSlice [] 0#4 ⟨9#8, 9#8, 9#8, 9#8⟩ = true ∧
    presentsSlice [1#8, 2#8, 3#8, 4#8] 4#4 ⟨1#8, 2#8, 3#8, 4#8⟩ = true ∧
    presentsSlice (List.replicate 15 7#8) 15#4 ⟨7#8, 7#8, 7#8, 7#8⟩ = true ∧
    presentsSlice (List.replicate 16 7#8) 0#4 ⟨0#8, 0#8, 0#8, 0#8⟩ = true := by decide

/-- A request that drives a line its operation does not use. -/
theorem witness_EncodeOfDecodeKeepsUsedLines :
    decode ⟨5#3, 0xFF00000064#72⟩ = .ok (.interpretStatus 100#32) := by decide

theorem witness_ReservedOpGetsNoStep :
    (sampleWith [.request ⟨6#3, 0#72⟩, .reset]).host = .request ⟨6#3, 0#72⟩ :: [.reset] ∧
    (6#3 : BitVec 3).toNat = 6 ∧ (7#3 : BitVec 3).toNat = 7 ∧
    (sampleWith [.request ⟨5#3, 0#72⟩]).host = .request ⟨5#3, 0#72⟩ :: [] ∧
    (5#3 : BitVec 3).toNat ≤ 5 := by decide

theorem witness_StepRunsPresentedOperation :
    (sampleWith [.request checksumRequest]).host = .request checksumRequest :: [] ∧
    decode checksumRequest = .ok (.checksum ⟨0#8, 0#8, 0#8, 0#8, 0#8, 0#8, 0#8, 0#8⟩) := by decide

theorem witness_IdleStepChangesNothing : sample.host = [] := rfl

theorem witness_ResetIsAStepOfItsOwn :
    (sampleWith [.reset, .reset]).host = .reset :: [.reset] := by decide

theorem witness_OutcStaysNamedBetweenResets :
    let s := ((sampleWith [.request ⟨5#3, 100#72⟩]).writeOutc .unknown)
    OutcNamed s ∧ s.host.head? ≠ some .reset ∧
    step s = .next ((s.setHost []).writeOutc .success) := ⟨by decide, by decide, rfl⟩

theorem witness_LawfulHostIsKeptByEveryStep :
    LawfulHost (sampleWith [.request checksumRequest, .reset]) := by decide

/-- Two lawful moves, then a reserved `OP`: lawful up to two steps, not at three. -/
theorem witness_RunStopsOnlyAtReservedOp :
    let s := sampleWith [.request checksumRequest, .reset, .request ⟨7#3, 0#72⟩]
    (s.host.take 2).all lawfulMove = true ∧ (s.host.take 3).all lawfulMove = false := by decide

/-- A host that computes a checksum, resets and computes another. -/
theorem witness_RegistersHoldTheLastWrite :
    let s := sampleWith [.request checksumRequest, .reset, .request checksumRequest]
    LawfulHost s ∧ lastSetting .csum s.host = some (.request checksumRequest) ∧
    lastSetting .rval s.host = some .reset := by decide

/-- A reserved `OP` next; a lawful move next, with an unlawful one after it; nothing next. -/
theorem witness_StepAnswersNextOnLawfulMove :
    (sampleWith [.request ⟨7#3, 0#72⟩]).host.head? = some (.request ⟨7#3, 0#72⟩) ∧
    lawfulMove (.request ⟨7#3, 0#72⟩) = false ∧
    (sampleWith [.request ⟨5#3, 0#72⟩, .request ⟨6#3, 0#72⟩]).host.head?.all lawfulMove = true ∧
    sample.host.head?.all lawfulMove = true := by decide

/-- A request, a reset, or nothing next. -/
theorem witness_StepSetsRegistersAsItsMove :
    (sampleWith [.request checksumRequest, .request ⟨6#3, 0#72⟩]).host.head?.all lawfulMove = true ∧
    (sampleWith [.reset]).host.head?.all lawfulMove = true ∧
    sample.host.head?.all lawfulMove = true := by decide

theorem witness_TransportOrderIsAscending :
    frameOfWire [1#8, 2#8, 3#8, 4#8, 5#8, 6#8, 7#8, 8#8, 9#8] =
      some ⟨1#8, 2#8, 3#8, 4#8, 5#8, 6#8, 7#8, 8#8, 9#8⟩ ∧
    frameByteAt sample.txf 8 = some 0x19#8 ∧ frameByteAt sample.txf 9 = none := by decide

/-- A wide request that each clause of the statement is about. -/
theorem witness_HarnessRefusesOutOfRange :
    instrOfWide (.encode 255 0 0 0 (-1)) = some (.encode 255#8 0#8 0#8 0#8 0xFFFFFFFF#32) ∧
    (instrOfWide (.checksum [0, 0, 0, 0, 0, 0, 0, 255])).isSome = true ∧
    (instrOfWide (.decodeValue 2 [1, 2])).isSome = true ∧
    (instrOfWide (.unpackS [1, 2, 3, 4, 5, 6, 7, 8, 9])).isSome = true ∧
    (instrOfWide (.unpackSV [1, 2, 3, 4, 5, 6, 7, 8, 9])).isSome = true ∧
    (instrOfWide (.interpretStatus (-1000))).isSome = true := by decide

theorem witness_IssuedLineRunsItsOperation :
    instrOfLine sample ⟨.interpretStatus, [.int .zext32Stat]⟩ = some (.interpretStatus 0xEE#32) := by
  decide

end Sys2Proof.Tests
end

section
/-! SUPPORT. Proofs of the statements of spec/00_scope.md: every operation completes (R3), its results
depend on its operands alone (R2), and what a step and a run do by the host's moves (R4, R100, R108). -/

namespace Sys2Proof.Machine

/-! ### One operation -/

/-- Every arm of `exec` answers a next state. -/
theorem exec_completes (i : Instr) (s : State) : ∃ t, exec i s = .next t := by
  cases i <;> exact ⟨_, rfl⟩

/-- The value an operation gives a register, read off its operands alone; `none` for a register it does
not write. `exec_read` ties it to `exec`, `writes_eq_isSome_writtenValue` to the table of R10. -/
def writtenValue : (i : Instr) → (r : Reg) → Option (BitVec r.width)
  | .encode cmd addr typ bank value, .txf => some (packFrame cmd addr typ bank value).view72
  | .checksum b, .csum => some (sum8 b)
  | .decodeValue len d, .rval => some (decodeLanes len d)
  | .unpackS f, .stat => some (frameStatus f)
  | .unpackSV f, .stat => some (frameStatus f)
  | .unpackSV f, .rval => some (be32Unpack (frameValueBytes f))
  | .interpretStatus code, .outc => some (outcomeCode (statusOutcome code))
  | _, _ => none

/-- The registers an operation gives a value are those of its row in the table of R10. -/
theorem writes_eq_isSome_writtenValue (i : Instr) (r : Reg) :
    writes i r = (writtenValue i r).isSome := by
  cases i <;> cases r <;> rfl

/-- After an operation a register reads as the value the operation gives it, or else as before. -/
theorem exec_read {i : Instr} {s t : State} (h : exec i s = .next t) (r : Reg) :
    t.read r = (writtenValue i r).getD (s.read r) := by
  cases i <;> cases h <;> cases r <;> rfl

/-- A register an operation does not write reads as before. -/
theorem exec_read_of_not_writes {i : Instr} {s t : State} {r : Reg} (h : exec i s = .next t)
    (hw : writes i r = false) : t.read r = s.read r := by
  rw [writes_eq_isSome_writtenValue, Option.isSome_eq_false_iff, Option.isNone_iff_eq_none] at hw
  rw [exec_read h, hw, Option.getD_none]

/-- A register an operation writes reads the same after it, from whichever state it ran. -/
theorem exec_read_eq_of_writes {i : Instr} {s t u v : State} {r : Reg} (hs : exec i s = .next t)
    (hu : exec i u = .next v) (hw : writes i r = true) : t.read r = v.read r := by
  rw [writes_eq_isSome_writtenValue, Option.isSome_iff_exists] at hw
  obtain ⟨x, hx⟩ := hw
  rw [exec_read hs, exec_read hu, hx, Option.getD_some, Option.getD_some]

/-- Settles O22: each operation has an arm of its own that answers next (R3). -/
theorem everyOperationCompletes : Obligations.EveryOperationCompletes := by
  unfold Obligations.EveryOperationCompletes
  exact exec_completes

/-- Settles O24: `writtenValue` takes no state, so what is written cannot depend on one (R2, R16). -/
theorem resultsDependOnOperandsOnly : Obligations.ResultsDependOnOperandsOnly := by
  unfold Obligations.ResultsDependOnOperandsOnly
  intro i s u
  obtain ⟨t, ht⟩ := exec_completes i s
  obtain ⟨v, hv⟩ := exec_completes i u
  exact ⟨t, v, ht, hv, fun r => ⟨exec_read_eq_of_writes ht hv, fun hw =>
    ⟨exec_read_of_not_writes ht hw, exec_read_of_not_writes hv hw⟩⟩⟩

/-! ### One step -/

/-- Settles O31: `fetch` finds the decoded operation, and `step` runs it (R4, R43). -/
theorem stepRunsPresentedOperation : Obligations.StepRunsPresentedOperation := by
  unfold Obligations.StepRunsPresentedOperation
  intro s r ms i hhost hdec
  simp only [step, fetch_run hhost hdec]

/-- A step goes through on a lawful move or none, with that move taken; a request with a reserved `OP`
is refused. There is no third case (R3, R100, R108). -/
theorem step_next_or_refused (s : State) :
    (s.host.head?.all lawfulMove = true ∧ ∃ t, step s = .next t ∧ t.host = s.host.tail) ∨
    (∃ r ms, s.host = .request r :: ms ∧ lawfulMove (.request r) = false ∧
      step s = .refused (.reservedOp r.op)) := by
  obtain ⟨hh, hs⟩ | ⟨ms, hh, hs⟩ | ⟨r, ms, i, hh, hop, -, hs⟩ | ⟨r, ms, hh, hop, hs⟩ := step_cases s
  · exact .inl ⟨by simp [hh], s, hs, by simp [hh]⟩
  · exact .inl ⟨by simp [hh, lawfulMove], _, hs, by simp [hh]⟩
  · obtain ⟨t, ht⟩ := exec_completes i (s.setHost ms)
    have hhost : t.host = ms := (exec_keeps_own_fields ht).1
    exact .inl ⟨by simp [hh, lawfulMove, hop], t, hs.trans ht, by simp [hh, hhost]⟩
  · exact .inr ⟨r, ms, hh, by simp [lawfulMove, hop], hs⟩

/-- Settles O43: the two cases of a step exclude each other (R3, R100, R108). -/
theorem stepAnswersNextOnLawfulMove : Obligations.StepAnswersNextOnLawfulMove := by
  unfold Obligations.StepAnswersNextOnLawfulMove
  intro s
  obtain ⟨hlaw, t, hs, -⟩ | ⟨q, ms, hh, hq, hs⟩ := step_next_or_refused s
  · refine ⟨iff_of_true ⟨t, hs⟩ hlaw, fun r hr hbad => ?_⟩
    simp [hr, hbad] at hlaw
  · refine ⟨iff_of_false (by simp [hs]) (by simp [hh, hq]), fun r hr _ => ?_⟩
    obtain rfl : q = r := by simpa [hh] using hr
    exact hs

/-! ### Runs -/

/-- A run whose first step answers next goes on from there. -/
theorem runSteps_succ_of_next {k : Nat} {s t : State} (h : step s = .next t) :
    runSteps (k + 1) s = runSteps k t := by rw [runSteps_succ, h]

/-- A run whose first step is refused is that refusal. -/
theorem runSteps_succ_of_refused {k : Nat} {s : State} {e : Refusal} (h : step s = .refused e) :
    runSteps (k + 1) s = .refused e := by rw [runSteps_succ, h]

/-- A lawful first move, or none, leaves lawfulness and the search for the first unlawful move to the
later moves. -/
theorem lawful_take_succ {ms : List HostMove} (h : ms.head?.all lawfulMove = true) (k : Nat) :
    (ms.take (k + 1)).all lawfulMove = (ms.tail.take k).all lawfulMove ∧
    (ms.take (k + 1)).find? (fun m => !lawfulMove m)
      = (ms.tail.take k).find? (fun m => !lawfulMove m) := by
  cases ms with
  | nil => simp
  | cons m rest =>
    have hm : lawfulMove m = true := by simpa using h
    simp [hm]

/-- Settles O38, by induction on the number of steps: a lawful first move leaves both sides to the run
from the next state, and a reserved `OP` ends both at once (R3, R100, R108). -/
theorem runStopsOnlyAtReservedOp : Obligations.RunStopsOnlyAtReservedOp := by
  unfold Obligations.RunStopsOnlyAtReservedOp
  intro k
  induction k with
  | zero => exact fun s => ⟨iff_of_true ⟨s, rfl⟩ rfl, fun h => nomatch h⟩
  | succ k ih =>
    intro s
    obtain ⟨hlaw, t, hs, ht⟩ | ⟨r, ms, hh, hr, hs⟩ := step_next_or_refused s
    · obtain ⟨hall, hfind⟩ := lawful_take_succ hlaw k
      rw [runSteps_succ_of_next hs, hall, hfind, ← ht]
      exact ih t
    · rw [runSteps_succ_of_refused hs]
      exact ⟨iff_of_false nofun (by simp [hh, hr]), fun _ => ⟨r, by simp [hh, hr], rfl⟩⟩

end Sys2Proof.Machine
end

section
/-! SUPPORT. Proofs of the statements of spec/10_state.md: which operation writes which register (R10),
the codes `OUTC` takes (R15), and the value each register holds after a step and after a run (R18). -/

namespace Sys2Proof.Machine

/-! ### One operation -/

/-- The codes of the outcomes are 0 to 8 (R15, 42_status.md R90). -/
theorem outcomeCode_le_eight (o : Outcome) : (outcomeCode o).toNat ≤ 8 := by
  cases o <;> decide

/-- Settles O23: each operation changes the registers of its row in R10 and no other (R15). -/
theorem registersChangeOnlyByTheirWriters : Obligations.RegistersChangeOnlyByTheirWriters := by
  unfold Obligations.RegistersChangeOnlyByTheirWriters
  intro i s
  cases i with
  | encode cmd addr typ bank value =>
    exact ⟨_, rfl, .inr ⟨cmd, addr, typ, bank, value, rfl⟩, .inl rfl, .inl rfl, .inl rfl, .inl rfl⟩
  | checksum b => exact ⟨_, rfl, .inl rfl, .inr ⟨b, rfl⟩, .inl rfl, .inl rfl, .inl rfl⟩
  | decodeValue len d =>
    exact ⟨_, rfl, .inl rfl, .inl rfl, .inr (.inl ⟨len, d, rfl⟩), .inl rfl, .inl rfl⟩
  | unpackS f => exact ⟨_, rfl, .inl rfl, .inl rfl, .inl rfl, .inr (.inl ⟨f, rfl⟩), .inl rfl⟩
  | unpackSV f =>
    exact ⟨_, rfl, .inl rfl, .inl rfl, .inr (.inr ⟨f, rfl⟩), .inr (.inr ⟨f, rfl⟩), .inl rfl⟩
  | interpretStatus code =>
    exact ⟨_, rfl, .inl rfl, .inl rfl, .inl rfl, .inl rfl,
      .inr ⟨⟨code, rfl⟩, outcomeCode_le_eight (statusOutcome code)⟩⟩

/-- No operation puts an unused code into `OUTC` (R15). -/
theorem exec_keeps_outcNamed {i : Instr} {s t : State} (h : exec i s = .next t) (hs : OutcNamed s) :
    OutcNamed t := by
  obtain ⟨u, hu, -, -, -, -, houtc⟩ := registersChangeOnlyByTheirWriters i s
  obtain rfl : t = u := by simpa [h] using hu
  obtain hkept | ⟨-, hle⟩ := houtc
  · exact (congrArg BitVec.toNat hkept).trans_le hs
  · exact hle

/-- Settles O35: only a reset can put an unused code into `OUTC` (R15, R23). -/
theorem outcStaysNamedBetweenResets : Obligations.OutcStaysNamedBetweenResets := by
  unfold Obligations.OutcStaysNamedBetweenResets
  intro s t hs hreset hst
  obtain ⟨-, hidle⟩ | ⟨ms, hh, -⟩ | ⟨r, ms, i, -, -, -, hrun⟩ | ⟨r, ms, -, -, hrefused⟩ := step_cases s
  · obtain rfl : s = t := by simpa [hidle] using hst
    exact hs
  · exact absurd (by simp [hh]) hreset
  · exact exec_keeps_outcNamed (hrun.symm.trans hst) hs
  · simp [hrefused] at hst

/-! ### What a move gives a register -/

/-- What the `draw`-th reset leaves in a register, as the host reads it (R23). `takeReset_read` ties it
to the reset transition. -/
def resetValue (draw : Nat) : (r : Reg) → BitVec r.width
  | .txf => (Config.resetTxf draw).view72
  | .csum => Config.resetCsum draw
  | .rval => Config.resetRval draw
  | .stat => Config.resetStat draw
  | .outc => Config.resetOutc draw

/-- What a move gives a register, `draw` being the draw of a reset; `none` for a register it leaves.
`step_read` ties it to `step`, `setsReg_eq_isSome_moveValue` to `setsReg`, and `read_setBy` to the terms
of the statements. -/
def moveValue (draw : Nat) (r : Reg) : HostMove → Option (BitVec r.width)
  | .reset => some (resetValue draw r)
  | .request q =>
    match decode q with
    | .ok i => writtenValue i r
    | .error _ => none

/-- After a reset a register reads as the fresh draw. -/
theorem takeReset_read (s : State) (r : Reg) : s.takeReset.read r = resetValue (s.resets + 1) r := by
  cases r <;> rfl

/-- A request gives a register what its operation writes there. -/
theorem moveValue_request {q : Request} {i : Instr} (h : decode q = .ok i) (draw : Nat) (r : Reg) :
    moveValue draw r (.request q) = writtenValue i r := by simp only [moveValue, h]

/-- A move sets the registers it gives a value. -/
theorem setsReg_eq_isSome_moveValue (draw : Nat) (r : Reg) (m : HostMove) :
    setsReg r m = (moveValue draw r m).isSome := by
  cases m with
  | reset => rfl
  | request q =>
    rcases hd : decode q with e | i
    · simp [setsReg, moveValue, hd]
    · simp [setsReg, moveValue, hd, writes_eq_isSome_writtenValue]

/-- The state whose register `r` holds what the move `m r` gives it, or what it held in `s`. -/
def State.setBy (s : State) (m : Reg → Option HostMove) (draw : Nat) : State :=
  { s with
    txf := txfSetBy (m .txf) draw s.txf
    csum := csumSetBy (m .csum) draw s.csum
    rval := rvalSetBy (m .rval) draw s.rval
    stat := statSetBy (m .stat) draw s.stat
    outc := outcSetBy (m .outc) draw s.outc }

/-- The five functions of the statements give each register the move's value, or keep the old one. -/
theorem read_setBy (s : State) (m : Reg → Option HostMove) (draw : Nat) (r : Reg) :
    (s.setBy m draw).read r = ((m r).bind (moveValue draw r)).getD (s.read r) := by
  rcases hm : m r with _ | q | _
  case' some.request =>
    rcases hd : decode q with e | i
    case' ok => cases i
  all_goals
    cases r <;> simp [State.setBy, txfSetBy, csumSetBy, rvalSetBy, statSetBy, outcSetBy, moveValue,
      resetValue, writtenValue, *]

/-- A frame is recovered from its 72-bit view (30_encoding.md R42). -/
theorem ofView72_view72 (f : Frame) : Frame.ofView72 f.view72 = f := by
  simp (disch := omega) only [Frame.ofView72, Frame.view72, BitVec.extractLsb'_append_eq_of_le,
    BitVec.extractLsb'_append_eq_of_add_le, Nat.reduceSub, BitVec.extractLsb'_eq_self]

/-- States that read alike hold the same in all five registers. -/
theorem registers_eq_of_read_eq {t u : State} (h : ∀ r, t.read r = u.read r) :
    t.txf = u.txf ∧ t.csum = u.csum ∧ t.rval = u.rval ∧ t.stat = u.stat ∧ t.outc = u.outc :=
  ⟨Function.LeftInverse.injective ofView72_view72 (h .txf), h .csum, h .rval, h .stat, h .outc⟩

/-- Reading in every register what a move gives it, or what it held, is the statements' form of it. -/
theorem registers_setBy_of_read_eq {s t : State} (m : Reg → Option HostMove) {draw : Nat}
    (h : ∀ r, t.read r = ((m r).bind (moveValue draw r)).getD (s.read r)) :
    t.txf = txfSetBy (m .txf) draw s.txf ∧ t.csum = csumSetBy (m .csum) draw s.csum ∧
    t.rval = rvalSetBy (m .rval) draw s.rval ∧ t.stat = statSetBy (m .stat) draw s.stat ∧
    t.outc = outcSetBy (m .outc) draw s.outc :=
  registers_eq_of_read_eq (u := s.setBy m draw) fun r => (h r).trans (read_setBy s m draw r).symm

/-! ### One step -/

/-- A step on a lawful move, or on none, takes the move, counts it if it is a reset, and leaves in each
register what the move gives it, or what it held. -/
theorem step_read {s : State} (hlaw : s.host.head?.all lawfulMove = true) :
    ∃ t, step s = .next t ∧ t.host = s.host.tail ∧
      t.resets = s.resets + (if s.host.head? = some .reset then 1 else 0) ∧
      ∀ r, t.read r = (s.host.head?.bind (moveValue t.resets r)).getD (s.read r) := by
  obtain ⟨hh, hs⟩ | ⟨ms, hh, hs⟩ | ⟨q, ms, i, hh, -, hd, hs⟩ | ⟨q, ms, hh, hop, -⟩ := step_cases s
  · exact ⟨s, hs, by simp [hh], by simp [hh], by simp [hh]⟩
  · exact ⟨_, hs, by simp [hh], by simp [hh], fun r => by simp [hh, takeReset_read, moveValue]⟩
  · obtain ⟨t, ht⟩ := exec_completes i (s.setHost ms)
    obtain ⟨hhost, hresets⟩ := exec_keeps_own_fields ht
    exact ⟨t, hs.trans ht, by simp [hh, hhost], by simp [hh, hresets],
      fun r => by simp [hh, exec_read ht, moveValue_request hd]⟩
  · have hbad : ¬q.op.toNat ≤ 5 := by omega
    simp [hh, lawfulMove, hbad] at hlaw

/-- Settles O44: each register reads as the move's value or as before, and reads determine the
registers (R18). -/
theorem stepSetsRegistersAsItsMove : Obligations.StepSetsRegistersAsItsMove := by
  unfold Obligations.StepSetsRegistersAsItsMove
  intro s hlaw
  obtain ⟨t, hs, hhost, hresets, hread⟩ := step_read hlaw
  exact ⟨t, hs, hhost, hresets, registers_setBy_of_read_eq (fun _ => s.host.head?) hread⟩

/-! ### Runs -/

/-- The last setting move is the one among the later moves, or else the first move if it sets. -/
theorem lastSetting_cons (r : Reg) (m : HostMove) (ms : List HostMove) :
    lastSetting r (m :: ms) = (lastSetting r ms).or (if setsReg r m then some m else none) := by
  by_cases h : setsReg r m
  · cases hl : (ms.filter (setsReg r)).getLast? <;> simp [lastSetting, h, hl, List.getLast?_cons]
  · simp [lastSetting, h]

/-- The last setting move does set the register. -/
theorem setsReg_of_lastSetting {r : Reg} {m : HostMove} {ms : List HostMove}
    (h : lastSetting r ms = some m) : setsReg r m = true :=
  (List.mem_filter.mp (List.mem_of_getLast? h)).2

/-- What the moves `ms` give a register: the value of the last one that sets it. -/
def lastValue (draw : Nat) (r : Reg) (ms : List HostMove) : Option (BitVec r.width) :=
  (lastSetting r ms).bind (moveValue draw r)

/-- The later moves decide what a register is given; where they give nothing, the first one does. -/
theorem lastValue_cons (draw : Nat) (r : Reg) (m : HostMove) (ms : List HostMove) :
    lastValue draw r (m :: ms) = (lastValue draw r ms).or (moveValue draw r m) := by
  rw [lastValue, lastValue, lastSetting_cons]
  cases hl : lastSetting r ms with
  | none =>
    cases hm : moveValue draw r m <;> simp [setsReg_eq_isSome_moveValue draw, hm]
  | some n =>
    have hn := setsReg_of_lastSetting hl
    rw [setsReg_eq_isSome_moveValue draw, Option.isSome_iff_exists] at hn
    obtain ⟨x, hx⟩ := hn
    simp [hx]

/-- Moves that give a register nothing have no reset among them: a reset sets every register. -/
theorem resetCount_eq_zero_of_lastValue_eq_none {draw : Nat} {r : Reg} {ms : List HostMove}
    (h : lastValue draw r ms = none) : resetCount ms = 0 := by
  induction ms with
  | nil => rfl
  | cons m ms ih =>
    rw [lastValue_cons, Option.or_eq_none_iff] at h
    cases m with
    | reset => simp [moveValue] at h
    | request q => simpa [resetCount] using ih h.1

/-- The first move may take its own draw `d` in place of the run's last one: the two differ only if a
later reset overrides what it gives. -/
theorem lastValue_cons_getD {d draw : Nat} {m : HostMove} {ms : List HostMove} (r : Reg)
    (hdraw : draw = d + resetCount ms) (x : BitVec r.width) :
    (lastValue draw r (m :: ms)).getD x = (lastValue draw r ms).getD ((moveValue d r m).getD x) := by
  rw [lastValue_cons, Option.getD_or]
  cases hl : lastValue draw r ms with
  | none =>
    obtain rfl : draw = d := by rw [hdraw, resetCount_eq_zero_of_lastValue_eq_none hl, Nat.add_zero]
    rfl
  | some v => rfl

/-- The first move is counted if it is a reset. -/
theorem resetCount_cons (m : HostMove) (ms : List HostMove) :
    resetCount (m :: ms) = (if m = .reset then 1 else 0) + resetCount ms := by
  cases m <;> simp [resetCount, Nat.add_comm]

/-- The run through a lawful host's moves, by induction on the moves: the first step is `step_read`, and
the run from the next state decides over it. -/
theorem run_read (ms : List HostMove) {s : State} (hh : s.host = ms) (hlaw : LawfulHost s) :
    ∃ t, runSteps ms.length s = .next t ∧ t.host = [] ∧ t.resets = s.resets + resetCount ms ∧
      ∀ r, t.read r = (lastValue t.resets r ms).getD (s.read r) := by
  induction ms generalizing s with
  | nil => exact ⟨s, rfl, hh, rfl, fun r => rfl⟩
  | cons m ms ih =>
    obtain ⟨hm, hms⟩ : lawfulMove m = true ∧ ms.all lawfulMove = true := by
      simpa [LawfulHost, hh] using hlaw
    obtain ⟨u, hu, huh, hur, hread⟩ := step_read (s := s) (by simp [hh, hm])
    simp only [hh, List.tail_cons, List.head?_cons, Option.some.injEq, Option.bind_some]
      at huh hur hread
    obtain ⟨t, ht, hth, htr, htread⟩ := ih huh (by rwa [LawfulHost, huh])
    refine ⟨t, (runSteps_succ_of_next hu).trans ht, hth, ?_, fun r => ?_⟩
    · rw [htr, hur, resetCount_cons, Nat.add_assoc]
    · rw [htread, hread, lastValue_cons_getD r htr]

/-- Settles O39: the run's last setting moves decide what every register reads (R18, R33). -/
theorem registersHoldTheLastWrite : Obligations.RegistersHoldTheLastWrite := by
  unfold Obligations.RegistersHoldTheLastWrite
  intro s hlaw
  obtain ⟨t, hrun, hhost, hresets, hread⟩ := run_read s.host rfl hlaw
  exact ⟨t, hrun, hhost, hresets,
    registers_setBy_of_read_eq (fun r => lastSetting r s.host) hread⟩

end Sys2Proof.Machine
end

section
/-! SUPPORT. Proofs of the statements of spec/20_memory.md: the order of a frame's bytes on the
transport (R25, R29) and issuing an operation a second time (R31). -/

namespace Sys2Proof.Machine

/-! ### Frames on the transport -/

/-- The `i`-th transport byte is byte `i` of the frame; from index 9 on there is neither (R25, R29). -/
theorem frameToWire_getElem? (f : Frame) (i : Nat) : (frameToWire f)[i]? = frameByteAt f i := by
  match i with
  | 0 | 1 | 2 | 3 | 4 | 5 | 6 | 7 | 8 => rfl
  | _ + 9 => rfl

/-- The bytes of a frame make that frame again, and no others do (R29). -/
theorem frameOfWire_eq_some_iff {bs : List Byte} {f : Frame} :
    frameOfWire bs = some f ↔ frameToWire f = bs := by
  constructor
  · intro h
    unfold frameOfWire at h
    split at h
    · cases h
      rfl
    · cases h
  · rintro rfl
    rfl

/-- The byte sequences of frames are those of nine bytes (30_encoding.md R52). -/
theorem exists_frameToWire_eq_iff {bs : List Byte} :
    (∃ f, frameToWire f = bs) ↔ bs.length = 9 := by
  constructor
  · rintro ⟨f, rfl⟩
    rfl
  · intro h
    match bs, h with
    | [f0, f1, f2, f3, f4, f5, f6, f7, f8], _ => exact ⟨⟨f0, f1, f2, f3, f4, f5, f6, f7, f8⟩, rfl⟩

/-- Settles O40: a sequence becomes a frame exactly when it is some frame's, that is, when it has nine
bytes (R25, R29, 30_encoding.md R52). -/
theorem transportOrderIsAscending : Obligations.TransportOrderIsAscending := by
  unfold Obligations.TransportOrderIsAscending
  refine ⟨frameToWire_getElem?, fun bs f => frameOfWire_eq_some_iff, fun bs => ?_⟩
  rw [Bool.eq_iff_iff, Option.isSome_iff_exists, decide_eq_true_iff]
  simp only [frameOfWire_eq_some_iff, exists_frameToWire_eq_iff]

/-! ### An operation issued twice -/

/-- States that read alike and agree in the model's own fields are equal. -/
theorem State.ext_read {s t : State} (hread : ∀ r, s.read r = t.read r) (hhost : s.host = t.host)
    (hresets : s.resets = t.resets) : s = t := by
  obtain ⟨htxf, hcsum, hrval, hstat, houtc⟩ := registers_eq_of_read_eq hread
  exact State.ext_fields htxf hcsum hrval hstat houtc hhost hresets

/-- The second issue gives each register the value it already holds, for that value comes from the
operands alone, and a register it does not write stands (R2, R16). -/
theorem exec_again {i : Instr} {s t : State} (h : exec i s = .next t) : exec i t = .next t := by
  obtain ⟨u, hu⟩ := exec_completes i t
  obtain ⟨hhost, hresets⟩ := exec_keeps_own_fields hu
  have hread : ∀ r, u.read r = t.read r := fun r => by
    cases hw : writes i r with
    | false => exact exec_read_of_not_writes hu hw
    | true => exact exec_read_eq_of_writes hu h hw
  rwa [State.ext_read hread hhost hresets] at hu

/-- Settles O25: the first issue completes, and the second one changes nothing (R31). -/
theorem operationsAreIdempotent : Obligations.OperationsAreIdempotent := by
  unfold Obligations.OperationsAreIdempotent
  intro i s
  obtain ⟨t, ht⟩ := exec_completes i s
  exact ⟨t, ht, exec_again ht⟩

end Sys2Proof.Machine
end

section
/-! SUPPORT. Proofs of the statements of spec/30_encoding.md: the 72-bit view of a frame (R42), the
decoder on the requests the encoder makes and on the reserved values of `OP` (R43, R44, R47), the lanes
an operation does not read (R55), and what the host's side presents: the harness with wide integers
(R46) and the lines of a listing (R53). -/

namespace Sys2Proof.Machine

/-! ### The 72-bit view of a frame -/

/-- Patterns set side by side, as a number: the low one takes its width of places. -/
theorem toNat_append_eq_add {m n : Nat} (x : BitVec m) (y : BitVec n) :
    (x ++ y).toNat = x.toNat * 2 ^ n + y.toNat := by
  rw [BitVec.toNat_append, ← Nat.shiftLeft_add_eq_or_of_lt y.isLt, Nat.shiftLeft_eq]

/-- The view is the bytes' sum, each at its place (R42). -/
theorem view72_toNat (f : Frame) : f.view72.toNat =
    f.f0.toNat * 2 ^ 64 + f.f1.toNat * 2 ^ 56 + f.f2.toNat * 2 ^ 48 + f.f3.toNat * 2 ^ 40
      + f.f4.toNat * 2 ^ 32 + f.f5.toNat * 2 ^ 24 + f.f6.toNat * 2 ^ 16 + f.f7.toNat * 2 ^ 8
      + f.f8.toNat := by
  simp only [Frame.view72, toNat_append_eq_add]
  omega

/-- A 72-bit value is recovered from its frame: the nine slices lie side by side (R42). -/
theorem view72_ofView72 (v : BitVec 72) : (Frame.ofView72 v).view72 = v := by
  simp (disch := omega) only [Frame.view72, Frame.ofView72,
    BitVec.extractLsb'_append_extractLsb'_eq_extractLsb', BitVec.extractLsb'_eq_self]

/-- Settles O26: the view is positional, and it and `Frame.ofView72` are inverse (R42). -/
theorem frameViewIsPositional : Obligations.FrameViewIsPositional := by
  unfold Obligations.FrameViewIsPositional
  exact ⟨view72_toNat, ofView72_view72, view72_ofView72⟩

/-! ### The decoder on the requests of the encoder -/

/-- Eight bytes are recovered from the lines that carry them (R46). -/
theorem ofLanes_view64 (b : Bytes8) : Bytes8.ofLanes (b.view64.setWidth 72) = b := by
  simp (disch := omega) only [Bytes8.ofLanes, Bytes8.view64, BitVec.extractLsb'_setWidth_of_le,
    BitVec.extractLsb'_append_eq_of_le, BitVec.extractLsb'_append_eq_of_add_le, Nat.reduceSub,
    BitVec.extractLsb'_eq_self]

/-- Four bytes are recovered from the lines that carry them, whatever stands above (R46). -/
theorem ofLanes_append_view32 (len : BitVec 4) (d : Bytes4) :
    Bytes4.ofLanes ((len ++ d.view32).setWidth 72) = d := by
  simp (disch := omega) only [Bytes4.ofLanes, Bytes4.view32, BitVec.extractLsb'_setWidth_of_le,
    BitVec.extractLsb'_append_eq_of_le, BitVec.extractLsb'_append_eq_of_add_le, Nat.reduceSub,
    BitVec.extractLsb'_eq_self]

/-- The request that presents an operation decodes to it, every operand at its value (R44, R46). -/
theorem decode_encode (i : Instr) : decode (encode i) = .ok i := by
  cases i with
  | encode cmd addr typ bank value =>
    simp (disch := omega) only [decode, encode, BitVec.reduceToNat,
      BitVec.extractLsb'_setWidth_of_le, BitVec.extractLsb'_append_eq_of_le,
      BitVec.extractLsb'_append_eq_of_add_le, Nat.reduceSub, BitVec.extractLsb'_eq_self]
  | checksum b => simp [decode, encode, ofLanes_view64]
  | decodeValue len d =>
    simp (disch := omega) only [decode, encode, BitVec.reduceToNat, ofLanes_append_view32,
      BitVec.extractLsb'_setWidth_of_le, BitVec.extractLsb'_append_eq_of_le, Nat.sub_self,
      BitVec.extractLsb'_eq_self]
  | unpackS f => simp [decode, encode, ofView72_view72]
  | unpackSV f => simp [decode, encode, ofView72_view72]
  | interpretStatus code =>
    simp (disch := omega) [decode, encode, BitVec.extractLsb'_setWidth_of_le]

/-- A request the encoder makes decodes to the operation it presents. -/
theorem decode_of_encode_eq {r : Request} {i : Instr} (h : encode i = r) : decode r = .ok i :=
  h ▸ decode_encode i

/-- Settles O29: each written-out request is the one that presents its operation (R44). -/
theorem writtenOutRequestsDecode : Obligations.WrittenOutRequestsDecode := by
  unfold Obligations.WrittenOutRequestsDecode
  exact ⟨decode_of_encode_eq rfl, decode_of_encode_eq rfl, decode_of_encode_eq rfl,
    decode_of_encode_eq rfl, decode_of_encode_eq rfl, decode_of_encode_eq rfl⟩

/-! ### The reserved values of `OP` -/

/-- Settles O30: a request is lawful exactly when its `OP` is at most 5 (R44, R47, R108). -/
theorem reservedOpGetsNoStep : Obligations.ReservedOpGetsNoStep := by
  unfold Obligations.ReservedOpGetsNoStep
  intro s r ms hhost
  constructor
  · intro hop
    have hbad : lawfulMove (.request r) = false := decide_eq_false (by omega)
    exact (stepAnswersNextOnLawfulMove s).2 r (by rw [hhost, List.head?_cons]) hbad
  · intro hop
    have hlaw : s.host.head?.all lawfulMove = true := by simp [hhost, lawfulMove, hop]
    obtain ⟨t, hs, ht, -⟩ := step_read hlaw
    exact ⟨t, hs, by rw [ht, hhost, List.tail_cons]⟩

/-! ### Lanes an operation does not read -/

/-- With `LEN` other than 4 the lanes are not looked at (R76). -/
theorem decodeLanes_of_ne_four {len : BitVec 4} (h : len.toNat ≠ 4) (d : Bytes4) :
    decodeLanes len d = 0#32 :=
  if_neg fun h4 => h (congrArg BitVec.toNat h4)

/-- `DECODE_VALUE` uses its lanes only through the value decoded from them. -/
theorem exec_decodeValue (len : BitVec 4) (d : Bytes4) (s : State) :
    exec (.decodeValue len d) s = .next (s.writeRval (decodeLanes len d)) := rfl

/-- `UNPACK_S` uses byte 2 of its frame only. -/
theorem exec_unpackS (f : Frame) (s : State) : exec (.unpackS f) s = .next (s.writeStat f.f2) := rfl

/-- `UNPACK_SV` uses byte 2 and bytes 4 to 7 of its frame only. -/
theorem exec_unpackSV (f : Frame) (s : State) :
    exec (.unpackSV f) s =
      .next ((s.writeStat f.f2).writeRval (be32Unpack ⟨f.f4, f.f5, f.f6, f.f7⟩)) := rfl

/-- Settles O15: each of the three operations answers a state made of the lanes it reads (R55). -/
theorem unreadLanesHaveNoEffect : Obligations.UnreadLanesHaveNoEffect := by
  unfold Obligations.UnreadLanesHaveNoEffect
  refine ⟨fun len d e s hlen => ?_, fun f g s h2 => ?_, fun f g s h2 h4 h5 h6 h7 => ?_⟩
  · rw [exec_decodeValue, exec_decodeValue, decodeLanes_of_ne_four hlen, decodeLanes_of_ne_four hlen]
  · rw [exec_unpackS, exec_unpackS, h2]
  · rw [exec_unpackSV, exec_unpackSV, h2, h4, h5, h6, h7]

/-! ### A line of a listing -/

/-- Presenting a move is no write: every register reads as before (R17). -/
@[simp] theorem State.read_present (s : State) (m : HostMove) (r : Reg) :
    (s.present m).read r = s.read r := State.read_setHost s _ r

/-- The step after an operation is presented runs it in the state before (R4, R43). -/
theorem step_present_encode (s : State) (i : Instr) :
    step (s.present (.request (encode i))) = exec i s :=
  stepRunsPresentedOperation _ _ _ i (State.present_host s _) (decode_encode i)

/-- Settles O42: issuing a line presents its operation (R17, R53). -/
theorem issuedLineRunsItsOperation : Obligations.IssuedLineRunsItsOperation := by
  unfold Obligations.IssuedLineRunsItsOperation
  intro s l i hline
  exact ⟨s.present (.request (encode i)), by rw [issueLine, hline, Option.map_some],
    State.read_present s _, step_present_encode s i⟩

/-! ### The harness with wide integers -/

/-- A byte as the unsigned integer it holds (00_scope.md section 4). -/
abbrev byteValue (b : Byte) : Int := b.toNat

/-- An integer in a byte's range keeps its value (R46). -/
theorem byteValue_byteOfInt {v : Int} (h : isByte v = true) : byteValue (byteOfInt v) = v := by
  simp only [isByte, Bool.and_eq_true, decide_eq_true_eq] at h
  simp only [byteValue, byteOfInt, BitVec.toNat_ofInt]
  omega

/-- An integer in the range of `LEN` keeps its value (R46). -/
theorem toNat_ofInt_of_isLen {v : Int} (h : isLen v = true) :
    ((BitVec.ofInt 4 v).toNat : Int) = v := by
  simp only [isLen, Bool.and_eq_true, decide_eq_true_eq] at h
  simp only [BitVec.toNat_ofInt]
  omega

/-- An integer in the signed 32-bit range keeps its value (R46). -/
theorem toInt_ofInt_of_isI32 {v : Int} (h : isI32 v = true) : (BitVec.ofInt 32 v).toInt = v := by
  simp only [isI32, Bool.and_eq_true, decide_eq_true_eq] at h
  exact BitVec.toInt_ofInt_eq_self (by omega) (by omega) (by omega)

/-- Integers in a byte's range keep their values (R46). -/
theorem map_byteValue_map_byteOfInt {l : List Int} (h : l.all isByte = true) :
    (l.map byteOfInt).map byteValue = l := by
  rw [List.map_map]
  exact (List.map_congr_left fun v hv => byteValue_byteOfInt (List.all_eq_true.mp h v hv)).trans
    (List.map_id l)

/-- `areBytes` is the length and the range of each byte. -/
theorem areBytes_iff {n : Nat} {l : List Int} :
    areBytes n l = true ↔ l.length = n ∧ l.all isByte = true := by
  rw [areBytes, Bool.and_eq_true, decide_eq_true_iff]

/-- Eight integers in a byte's range make eight bytes of the same values (R46). -/
theorem exists_bytes8OfInts {l : List Int} (h : areBytes 8 l = true) :
    ∃ b, bytes8OfInts l = some b ∧ (bytes8List b).map byteValue = l := by
  obtain ⟨hlen, hbytes⟩ := areBytes_iff.mp h
  have hb : ∃ b, bytes8OfInts l = some b ∧ bytes8List b = l.map byteOfInt := by
    match l, hlen with
    | [_, _, _, _, _, _, _, _], _ => exact ⟨_, rfl, rfl⟩
  obtain ⟨b, hb, hlist⟩ := hb
  exact ⟨b, hb, by rw [hlist, map_byteValue_map_byteOfInt hbytes]⟩

/-- Nine integers in a byte's range make a frame of the same values (R46, R52). -/
theorem exists_frameOfWire_map {l : List Int} (h : areBytes 9 l = true) :
    ∃ f, frameOfWire (l.map byteOfInt) = some f ∧ (frameToWire f).map byteValue = l := by
  obtain ⟨hlen, hbytes⟩ := areBytes_iff.mp h
  obtain ⟨f, hf⟩ := exists_frameToWire_eq_iff.mpr ((List.length_map byteOfInt).trans hlen)
  exact ⟨f, frameOfWire_eq_some_iff.mpr hf, by rw [hf, map_byteValue_map_byteOfInt hbytes]⟩

/-- A list of lanes has at most four, each a byte (R53). -/
theorem length_le_four_and_isByte_of_areLanes {len : Int} {d : List Int} (h : areLanes len d = true) :
    d.length ≤ 4 ∧ d.all isByte = true := by
  simp only [areLanes, Bool.and_eq_true, Bool.or_eq_true, decide_eq_true_eq] at h
  obtain ⟨hlen, hbytes⟩ := h
  exact ⟨by omega, hbytes⟩

/-- A lane of the list holds the list's byte. -/
theorem laneOfInts_of_lt {d : List Int} {i : Nat} (h : i < d.length) :
    laneOfInts d i = byteOfInt d[i] := by
  simp only [laneOfInts, List.getElem?_eq_getElem h]

/-- The lanes begin with the bytes of the list (R53). -/
theorem prefix_lanes {d : List Int} (hlen : d.length ≤ 4) (hbytes : d.all isByte = true) :
    d <+: ((List.range 4).map (laneOfInts d)).map byteValue := by
  rw [List.prefix_iff_getElem?]
  intro i hi
  have hv : byteValue (byteOfInt d[i]) = d[i] :=
    byteValue_byteOfInt (List.all_eq_true.mp hbytes _ (List.getElem_mem hi))
  simp [List.getElem?_range (hi.trans_le hlen), laneOfInts_of_lt hi, hv]

/-- The operation `i` is the one the wide request names, each operand at the integer value given; what
stands on a lane beyond a short list is left open (R46, R53). -/
def CarriesValues (w : WideRequest) (i : Instr) : Prop :=
  match w with
  | .encode cmd addr typ bank value => ∃ (c a t b : Byte) (v : Word), i = .encode c a t b v ∧
      byteValue c = cmd ∧ byteValue a = addr ∧ byteValue t = typ ∧ byteValue b = bank ∧
      v.toInt = value
  | .checksum bs => ∃ b, i = .checksum b ∧ (bytes8List b).map byteValue = bs
  | .decodeValue len ds => ∃ l d, i = .decodeValue l d ∧ (l.toNat : Int) = len ∧
      ds <+: [d.d0, d.d1, d.d2, d.d3].map byteValue
  | .unpackS bs => ∃ f, i = .unpackS f ∧ (frameToWire f).map byteValue = bs
  | .unpackSV bs => ∃ f, i = .unpackSV f ∧ (frameToWire f).map byteValue = bs
  | .interpretStatus code => ∃ c, i = .interpretStatus c ∧ c.toInt = code

/-- A request with an operand out of range is not presented (D16). -/
theorem instrOfWide_of_not_wellFormed {w : WideRequest} (h : w.wellFormed = false) :
    instrOfWide w = none := by simp [instrOfWide, h]

/-- A request with every operand in range is presented with its values (R46). -/
theorem instrOfWide_of_wellFormed {w : WideRequest} (h : w.wellFormed = true) :
    ∃ i, instrOfWide w = some i ∧ CarriesValues w i := by
  simp only [instrOfWide, if_pos h]
  cases w with
  | encode cmd addr typ bank value =>
    simp only [WideRequest.wellFormed, Bool.and_eq_true] at h
    obtain ⟨⟨⟨⟨hc, ha⟩, ht⟩, hb⟩, hv⟩ := h
    exact ⟨_, rfl, _, _, _, _, _, rfl, byteValue_byteOfInt hc, byteValue_byteOfInt ha,
      byteValue_byteOfInt ht, byteValue_byteOfInt hb, toInt_ofInt_of_isI32 hv⟩
  | checksum bs =>
    obtain ⟨b, hb, hvalues⟩ := exists_bytes8OfInts h
    exact ⟨_, congrArg (Option.map Instr.checksum) hb, b, rfl, hvalues⟩
  | decodeValue len ds =>
    obtain ⟨hlen, hlanes⟩ := Bool.and_eq_true_iff.mp h
    obtain ⟨hlength, hbytes⟩ := length_le_four_and_isByte_of_areLanes hlanes
    exact ⟨_, rfl, _, _, rfl, toNat_ofInt_of_isLen hlen, prefix_lanes hlength hbytes⟩
  | unpackS bs =>
    obtain ⟨f, hf, hvalues⟩ := exists_frameOfWire_map h
    exact ⟨_, congrArg (Option.map Instr.unpackS) hf, f, rfl, hvalues⟩
  | unpackSV bs =>
    obtain ⟨f, hf, hvalues⟩ := exists_frameOfWire_map h
    exact ⟨_, congrArg (Option.map Instr.unpackSV) hf, f, rfl, hvalues⟩
  | interpretStatus code => exact ⟨_, rfl, _, rfl, toInt_ofInt_of_isI32 h⟩

/-- A request is presented exactly when every operand is in range (D16). -/
theorem isSome_instrOfWide (w : WideRequest) : (instrOfWide w).isSome = w.wellFormed := by
  cases hw : w.wellFormed with
  | false => rw [instrOfWide_of_not_wellFormed hw, Option.isSome_none]
  | true =>
    obtain ⟨i, hi, -⟩ := instrOfWide_of_wellFormed hw
    rw [hi, Option.isSome_some]

/-- Settles O41: what is presented was in range, and so carries the values given (R46, D16). -/
theorem harnessRefusesOutOfRange : Obligations.HarnessRefusesOutOfRange := by
  unfold Obligations.HarnessRefusesOutOfRange
  refine ⟨isSome_instrOfWide, fun w i hi => ?_⟩
  have hw : w.wellFormed = true := by rw [← isSome_instrOfWide, hi, Option.isSome_some]
  obtain ⟨j, hj, hvalues⟩ := instrOfWide_of_wellFormed hw
  obtain rfl : j = i := Option.some.inj (hj.symm.trans hi)
  exact hvalues

end Sys2Proof.Machine
end

section
/-! SUPPORT. Proofs of the statements of spec/40_encode_checksum.md: the checksum as a sum of bytes (R61),
what a changed byte and a changed order do to it (R65, R66), and the operations `ENCODE` and `CHECKSUM`
with the frame they leave (R62, R63, R64, R67). -/

namespace Sys2Proof.Machine

/-! ### The checksum -/

/-- The checksum over the natural numbers, in the words of R61. -/
theorem sum8_toNat (b : Bytes8) :
    (sum8 b).toNat = (b.b0.toNat + b.b1.toNat + b.b2.toNat + b.b3.toNat + b.b4.toNat + b.b5.toNat
      + b.b6.toNat + b.b7.toNat) % 256 :=
  BitVec.toNat_ofNat _ 8

/-- The checksum is the sum of the list of bytes, in the arithmetic of bytes. -/
theorem sum8_eq_sum (b : Bytes8) : sum8 b = (bytes8List b).sum := by
  simp [sum8_eq_add, bytes8List, add_assoc]

/-- The hardware form is the same sum: its adder adds bytes (R61). -/
theorem sum8Adder_eq_sum8 (b : Bytes8) : sum8Adder b = sum8 b := by
  have hadd : addDiscardCarry = fun x y => x + y := funext₂ addDiscardCarry_eq_add
  rw [sum8_eq_sum, List.sum_eq_foldl, sum8Adder, hadd]
  rfl

/-- Settles O3: the list's sum is that of R61, and the adder form is `sum8Adder_eq_sum8`. -/
theorem adderFormEqualsModularSum : Obligations.AdderFormEqualsModularSum := by
  unfold Obligations.AdderFormEqualsModularSum
  refine fun b => ⟨?_, sum8Adder_eq_sum8 b⟩
  simp [sum8_toNat, bytes8List, add_assoc]

/-- Settles O6: the sum of a list does not depend on its order (R66). -/
theorem checksumIgnoresByteOrder : Obligations.ChecksumIgnoresByteOrder := by
  unfold Obligations.ChecksumIgnoresByteOrder
  exact ⟨fun b c h => by rw [sum8_eq_sum, sum8_eq_sum, h.sum_eq], fun f k => rfl⟩

/-! ### One byte replaced -/

/-- Replacing a byte replaces that entry of the list. -/
theorem bytes8List_bytes8Set (b : Bytes8) (i : Fin 8) (v : Byte) :
    bytes8List (bytes8Set b i v) = (bytes8List b).set i v := by
  match i with
  | 0 | 1 | 2 | 3 | 4 | 5 | 6 | 7 => rfl

/-- Byte `i` is entry `i` of the list. -/
theorem bytes8List_getElem (b : Bytes8) (i : Fin 8) (h : i.val < (bytes8List b).length) :
    (bytes8List b)[i.val] = bytes8Get b i := by
  match i with
  | 0 | 1 | 2 | 3 | 4 | 5 | 6 | 7 => rfl

/-- Replacing a byte leaves the others. -/
theorem bytes8Get_bytes8Set_of_ne (b : Bytes8) {i j : Fin 8} (v : Byte) (h : i ≠ j) :
    bytes8Get (bytes8Set b i v) j = bytes8Get b j := by
  have hval : i.val ≠ j.val := Fin.val_ne_of_ne h
  have hlt (c : Bytes8) : j.val < (bytes8List c).length := j.isLt
  rw [← bytes8List_getElem _ j (hlt _), ← bytes8List_getElem _ j (hlt _)]
  simp only [bytes8List_bytes8Set, List.getElem_set_ne hval]

/-- The checksum moves by what the replaced byte moves (R65). -/
theorem sum8_bytes8Set (b : Bytes8) (i : Fin 8) (v : Byte) :
    sum8 (bytes8Set b i v) = sum8 b + (v - bytes8Get b i) := by
  have hi : i.val < (bytes8List b).length := i.isLt
  rw [sum8_eq_sum, bytes8List_bytes8Set, List.sum_set', dif_pos hi, bytes8List_getElem,
    ← sum8_eq_sum, neg_add_eq_sub]

/-- A sum and a difference of bytes, over the integers modulo 256. -/
theorem byte_toNat_add_sub (k v x : Byte) :
    ((k + (v - x)).toNat : Int) = (k.toNat + v.toNat - x.toNat : Int) % 256 := by
  have hx := x.isLt
  rw [BitVec.toNat_add, BitVec.toNat_sub]
  omega

/-- Differences that add to 0 modulo 256 cancel as bytes. -/
theorem byte_sub_add_sub_eq_zero {v x w y : Byte}
    (h : ((v.toNat - x.toNat : Int) + (w.toNat - y.toNat : Int)) % 256 = 0) :
    (v - x) + (w - y) = 0 := by
  bv_omega

/-- Settles O5: `sum8_bytes8Set` once for one replaced byte and twice for two, the second difference
being of a byte the first replacement leaves (R65). -/
theorem singleByteChangeShiftsChecksum : Obligations.SingleByteChangeShiftsChecksum := by
  unfold Obligations.SingleByteChangeShiftsChecksum
  intro b i v
  refine ⟨?_, fun hv => ?_, fun j w hij hcancel => ?_⟩
  · rw [sum8_bytes8Set, byte_toNat_add_sub]
  · rw [sum8_bytes8Set, ne_eq, add_eq_left, sub_eq_zero]
    exact hv
  · rw [sum8_bytes8Set, sum8_bytes8Set, bytes8Get_bytes8Set_of_ne b v hij, add_assoc,
      byte_sub_add_sub_eq_zero hcancel, add_zero]

/-! ### The operations -/

/-- `ENCODE` writes the packed frame and nothing else (R62). -/
theorem exec_encode (cmd addr typ bank : Byte) (value : Word) (s : State) :
    exec (.encode cmd addr typ bank value) s =
      .next (s.writeTxf (packFrame cmd addr typ bank value)) := rfl

/-- `CHECKSUM` writes the checksum of its bytes and nothing else (R63). -/
theorem exec_checksum (b : Bytes8) (s : State) :
    exec (.checksum b) s = .next (s.writeCsum (sum8 b)) := rfl

/-- Settles O2: `CSUM` holds `sum8`, over the naturals (R63). -/
theorem checksumSumsEightBytes : Obligations.ChecksumSumsEightBytes := by
  unfold Obligations.ChecksumSumsEightBytes
  exact fun b s => ⟨rfl, _, exec_checksum b s, sum8_toNat b, rfl, rfl, rfl, rfl, rfl, rfl⟩

/-- Byte 8 of a packed frame is the checksum of its bytes 0 to 7 (R62). -/
theorem packFrame_f8 (cmd addr typ bank : Byte) (value : Word) :
    (packFrame cmd addr typ bank value).f8 = sum8 (frameSpan (packFrame cmd addr typ bank value)) :=
  rfl

/-- Settles O4: byte 8 is that checksum, and `CHECKSUM` computes it again (R64). -/
theorem frameCarriesItsChecksum : Obligations.FrameCarriesItsChecksum := by
  unfold Obligations.FrameCarriesItsChecksum
  intro cmd addr typ bank value s
  have hf8 := packFrame_f8 cmd addr typ bank value
  exact ⟨_, _, exec_encode cmd addr typ bank value s, hf8, exec_checksum _ _, hf8.symm⟩

/-- The unsigned pattern of a word's signed value is the word (00_scope.md section 4). -/
theorem u32_toInt (u : Word) : u32 u.toInt = u.toNat := by
  have hu := u.isLt
  rw [u32, BitVec.toInt_eq_toNat_cond]
  split <;> split <;> omega

/-- Settles O1: the bytes of the value are those of `be32Pack`, and byte 8 their `sum8` (R60, R62). -/
theorem encodeBuildsCommandFrame : Obligations.EncodeBuildsCommandFrame := by
  unfold Obligations.EncodeBuildsCommandFrame
  intro cmd addr typ bank value s
  obtain ⟨h4, h5, h6, h7⟩ := be32Pack_toNat value
  rw [u32_toInt]
  exact ⟨rfl, _, exec_encode cmd addr typ bank value s, rfl, rfl, rfl, rfl, h4, h5, h6, h7,
    sum8_toNat _, rfl, rfl, rfl, rfl, rfl, rfl⟩

/-! ### The value from `ENCODE` to `DECODE_VALUE` -/

/-- The marshaller loses no bit: unpacking the four packed bytes gives the pattern (R60). -/
theorem be32Unpack_be32Pack (u : Word) : be32Unpack (be32Pack u) = u := by
  obtain ⟨h0, h1, h2, h3⟩ := be32Pack_toNat u
  apply BitVec.eq_of_toNat_eq
  rw [be32Unpack_toNat, h0, h1, h2, h3]
  omega

/-- The value bytes of a packed frame hold the value (R62). -/
theorem be32Unpack_packFrame (cmd addr typ bank : Byte) (value : Word) :
    be32Unpack (frameValueBytes (packFrame cmd addr typ bank value)) = value :=
  be32Unpack_be32Pack value

/-- Four lanes are decoded as they stand (R76). -/
theorem decodeLanes_four (d : Bytes4) : decodeLanes 4#4 d = be32Unpack d := rfl

/-- Settles O9: the value bytes unpack to the value, and a value in the signed range is kept by its
pattern (R67). -/
theorem valueRoundTrip : Obligations.ValueRoundTrip := by
  unfold Obligations.ValueRoundTrip
  intro cmd addr typ bank v s hlo hhi
  have hv : (BitVec.ofInt 32 v).toInt = v := toInt_ofInt_of_isI32 (by simp [isI32, hlo, hhi])
  refine ⟨_, _, exec_encode _ _ _ _ _ s, ?_, exec_decodeValue _ _ _, ?_⟩
  · rw [State.writeTxf_txf, be32Unpack_packFrame, hv]
  · rw [State.readValue, State.writeRval_rval, decodeLanes_four, State.writeTxf_txf,
      be32Unpack_packFrame, hv]

end Sys2Proof.Machine
end

section
/-! SUPPORT. Proofs of the statements of spec/41_decode_unpack.md: the marshaller as a signed big-endian
value and its two inverse directions (R75, R83), `DECODE_VALUE` with a slice of any length (R76), and the
two unpack operations with the status code the host makes of `STAT` (R77 to R80). -/

namespace Sys2Proof.Machine

/-! ### The marshaller -/

/-- A pattern read as two's complement is the signed integer of its number (00_scope.md section 4). -/
theorem toInt_eq_s32 (u : Word) : u.toInt = s32 u.toNat := by
  rw [s32, BitVec.toInt_eq_toNat_cond]
  split <;> split <;> omega

/-- Four bytes read as a signed big-endian value (R75). -/
theorem be32Unpack_toInt (b : Bytes4) :
    (be32Unpack b).toInt =
      s32 (b.d0.toNat * 2 ^ 24 + b.d1.toNat * 2 ^ 16 + b.d2.toNat * 2 ^ 8 + b.d3.toNat) := by
  rw [toInt_eq_s32]
  exact congrArg s32 (be32Unpack_toNat b)

/-- The sign bit of four bytes is that of the first (R75). -/
theorem be32Unpack_toNat_lt_iff (b : Bytes4) :
    (be32Unpack b).toNat < 2147483648 ↔ b.d0.toNat < 128 := by
  have h1 := b.d1.isLt
  have h2 := b.d2.isLt
  have h3 := b.d3.isLt
  rw [be32Unpack_toNat]
  omega

/-- The marshaller keeps the bytes apart: packing the pattern of four bytes gives the bytes (R75). -/
theorem be32Pack_be32Unpack (b : Bytes4) : be32Pack (be32Unpack b) = b := by
  simp (disch := omega) only [be32Pack, be32Unpack, BitVec.extractLsb'_append_eq_of_le,
    BitVec.extractLsb'_append_eq_of_add_le, Nat.reduceSub, BitVec.extractLsb'_eq_self]

/-- Settles O8: the sign by the first byte is `be32Unpack_toNat_lt_iff` in `toInt_eq_s32`, and the two
directions are `be32Unpack_be32Pack` and `be32Pack_be32Unpack` (R75). -/
theorem marshallersAreInverse : Obligations.MarshallersAreInverse := by
  unfold Obligations.MarshallersAreInverse
  refine ⟨fun b => ⟨be32Unpack_toNat b, ?_⟩, be32Unpack_be32Pack, be32Pack_be32Unpack⟩
  simp only [toInt_eq_s32, s32, be32Unpack_toNat_lt_iff, Int.reducePow]

/-- The value bytes of a packed frame are those of the marshaller (R62). -/
theorem frameValueBytes_packFrame (cmd addr typ bank : Byte) (value : Word) :
    frameValueBytes (packFrame cmd addr typ bank value) = be32Pack value := rfl

/-- Settles O10: the signed value read from `RVAL` names the pattern of the bytes, and packing that
pattern gives the bytes (R83). -/
theorem unpackThenPackRoundTrip : Obligations.UnpackThenPackRoundTrip := by
  unfold Obligations.UnpackThenPackRoundTrip
  intro cmd addr typ bank b s
  refine ⟨_, _, exec_decodeValue _ _ s, exec_encode _ _ _ _ _ _, ?_⟩
  rw [State.readValue, State.writeRval_rval, BitVec.ofInt_toInt, decodeLanes_four,
    State.writeTxf_txf, frameValueBytes_packFrame, be32Pack_be32Unpack]

/-! ### `DECODE_VALUE` -/

/-- The lanes read as a signed value: big-endian when `LEN` is 4, the zero sentinel otherwise (R76). -/
theorem decodeLanes_toInt (len : BitVec 4) (d : Bytes4) :
    (decodeLanes len d).toInt = if len.toNat = 4 then
      s32 (d.d0.toNat * 2 ^ 24 + d.d1.toNat * 2 ^ 16 + d.d2.toNat * 2 ^ 8 + d.d3.toNat) else 0 := by
  split
  case isTrue h =>
    obtain rfl : len = 4#4 := BitVec.eq_of_toNat_eq h
    rw [decodeLanes_four, be32Unpack_toInt]
  case isFalse h => rw [decodeLanes_of_ne_four h, BitVec.toInt_zero]

/-- Settles O11: `RVAL` holds `decodeLanes`, read signed, and no other field is written (R76). -/
theorem decodeValueFourBytesOrZero : Obligations.DecodeValueFourBytesOrZero := by
  unfold Obligations.DecodeValueFourBytesOrZero
  exact fun len d s => ⟨rfl, _, exec_decodeValue len d s, decodeLanes_toInt len d,
    rfl, rfl, rfl, rfl, rfl, rfl⟩

/-! ### A slice of any length -/

/-- The source's `decode_value` of a slice that has not four bytes is the zero sentinel (R76). -/
theorem decodeSlice_of_length_ne_four {bs : List Byte} (h : bs.length ≠ 4) :
    decodeSlice bs = 0#32 := by
  unfold decodeSlice
  split
  · exact absurd rfl h
  · rfl

/-- Lanes that hold four bytes are those bytes. -/
theorem lanesHold_four_iff {b0 b1 b2 b3 : Byte} {d : Bytes4} :
    lanesHold [b0, b1, b2, b3] d = true ↔ ⟨b0, b1, b2, b3⟩ = d := by
  cases d
  simp [lanesHold]

/-- The first bytes of a slice, a lane past its end 0. -/
def slicedLanes (bs : List Byte) : Bytes4 :=
  { d0 := bs.getD 0 0#8, d1 := bs.getD 1 0#8, d2 := bs.getD 2 0#8, d3 := bs.getD 3 0#8 }

/-- Every slice has lanes that hold its first bytes. -/
theorem lanesHold_slicedLanes (bs : List Byte) : lanesHold bs (slicedLanes bs) = true := by
  match bs with
  | [] | [_] | [_, _] | [_, _, _] | _ :: _ :: _ :: _ :: _ => simp [lanesHold, slicedLanes]

/-- A slice of up to 15 bytes is presented by its length and by lanes that hold its first bytes (D5). -/
theorem presentsSlice_of_length_le {bs : List Byte} (h : bs.length ≤ 15) (len : BitVec 4)
    (d : Bytes4) :
    presentsSlice bs len d = true ↔ len.toNat = bs.length ∧ lanesHold bs d = true := by
  rw [presentsSlice, if_pos h, Bool.and_eq_true, decide_eq_true_eq]

/-- A longer slice is presented by any `LEN` other than 4 (D5). -/
theorem presentsSlice_of_lt_length {bs : List Byte} (h : 15 < bs.length) (len : BitVec 4)
    (d : Bytes4) : presentsSlice bs len d = true ↔ len.toNat ≠ 4 := by
  rw [presentsSlice, if_neg (by omega), decide_eq_true_eq]

/-- The operands that present a slice decode to the source's `decode_value` of it: with four bytes they
are `LEN` 4 and those bytes, with any other number `LEN` is not 4 (R76, D5). -/
theorem decodeLanes_of_presentsSlice {bs : List Byte} {len : BitVec 4} {d : Bytes4}
    (h : presentsSlice bs len d = true) : decodeLanes len d = decodeSlice bs := by
  by_cases hfour : bs.length = 4
  · obtain ⟨b0, b1, b2, b3, rfl⟩ := List.length_eq_four.mp hfour
    obtain ⟨hlen, hd⟩ := (presentsSlice_of_length_le (by simp) len d).mp h
    obtain rfl : len = 4#4 := BitVec.eq_of_toNat_eq hlen
    obtain rfl := lanesHold_four_iff.mp hd
    exact decodeLanes_four _
  · have hlen : len.toNat ≠ 4 := by
      rcases Nat.lt_or_ge 15 bs.length with hlong | hshort
      · exact (presentsSlice_of_lt_length hlong len d).mp h
      · obtain ⟨hlen, -⟩ := (presentsSlice_of_length_le hshort len d).mp h
        omega
    rw [decodeLanes_of_ne_four hlen, decodeSlice_of_length_ne_four hfour]

/-- The host can present a slice of any length (D5). -/
theorem exists_presentsSlice (bs : List Byte) : ∃ len d, presentsSlice bs len d = true := by
  rcases Nat.lt_or_ge 15 bs.length with hlong | hshort
  · exact ⟨0#4, slicedLanes bs, (presentsSlice_of_lt_length hlong _ _).mpr (by decide)⟩
  · refine ⟨BitVec.ofNat 4 bs.length, slicedLanes bs,
      (presentsSlice_of_length_le hshort _ _).mpr ⟨?_, lanesHold_slicedLanes bs⟩⟩
    rw [BitVec.toNat_ofNat]
    omega

/-- Settles O17: what is decoded is `decodeLanes_of_presentsSlice`, and `exists_presentsSlice` presents
every slice (R76, D5). -/
theorem everySliceDecodesAsSource : Obligations.EverySliceDecodesAsSource := by
  unfold Obligations.EverySliceDecodesAsSource
  exact ⟨fun bs len d s h => ⟨_, exec_decodeValue len d s, decodeLanes_of_presentsSlice h⟩,
    exists_presentsSlice⟩

/-! ### The two unpack operations -/

/-- Settles O12: `STAT` is the one field `UNPACK_S` writes (R77). -/
theorem unpackStatusOnly : Obligations.UnpackStatusOnly := by
  unfold Obligations.UnpackStatusOnly
  exact fun f s => ⟨rfl, _, exec_unpackS f s, rfl, rfl, rfl, rfl, rfl, rfl, rfl⟩

/-- Settles O13: `RVAL` holds bytes 4 to 7, whose signed value is `be32Unpack_toInt` (R78). -/
theorem unpackStatusAndValue : Obligations.UnpackStatusAndValue := by
  unfold Obligations.UnpackStatusAndValue
  exact fun f s => ⟨rfl, _, exec_unpackSV f s, rfl, be32Unpack_toInt _, rfl, rfl, rfl, rfl, rfl⟩

/-- Settles O14: `UNPACK_SV` writes `STAT` as `UNPACK_S` does and then `RVAL` as `DECODE_VALUE` with
four bytes does (R79). -/
theorem unpackVariantsAgree : Obligations.UnpackVariantsAgree := by
  unfold Obligations.UnpackVariantsAgree
  exact fun f s => ⟨_, _, _, exec_unpackSV f s, exec_decodeValue _ _ s, exec_unpackS f s,
    (decodeLanes_four _).symm, rfl, rfl, rfl⟩

/-- Zero-extension gives a byte its unsigned value (R48 (e), R80). -/
theorem zext32_toInt (b : Byte) : (zext32 b).toInt = b.toNat := by
  have hb := b.isLt
  rw [zext32, BitVec.toInt_setWidth, Int.bmod_eq_of_le (by omega) (by omega)]

/-- Settles O20: both operations leave byte 2 in `STAT`, and a byte is at most 255 (R80). -/
theorem statusCodeIsUnsigned : Obligations.StatusCodeIsUnsigned := by
  unfold Obligations.StatusCodeIsUnsigned
  intro f s
  have hbyte := f.f2.isLt
  refine ⟨_, _, exec_unpackS f s, exec_unpackSV f s, zext32_toInt _, zext32_toInt _, ?_⟩
  rw [State.writeStat_stat, zext32_toInt]
  omega

end Sys2Proof.Machine
end

section
/-! SUPPORT. Proofs of the statements of spec/42_status.md: `INTERPRET_STATUS` by its table (R90, R91), the
eight codes the table names (R92), and the outcome of a response's status byte (R94). -/

namespace Sys2Proof.Machine

/-- `INTERPRET_STATUS` writes the table's outcome and nothing else (R91). -/
theorem exec_interpretStatus (code : Word) (s : State) :
    exec (.interpretStatus code) s = .next (s.writeOutc (statusOutcome code)) := rfl

/-! ### The codes of the outcomes -/

/-- The code of an outcome names that outcome (R90). -/
theorem outcomeOfCode_outcomeCode (o : Outcome) : outcomeOfCode (outcomeCode o) = some o := by
  cases o <;> rfl

/-- No two outcomes share a code (R90). -/
theorem outcomeCode_inj {o p : Outcome} : outcomeCode o = outcomeCode p ↔ o = p := by
  refine ⟨fun h => Option.some.inj ?_, congrArg outcomeCode⟩
  rw [← outcomeOfCode_outcomeCode, h, outcomeOfCode_outcomeCode]

/-- The host reads the outcome last written (R15, R90). -/
@[simp] theorem State.readOutcome_writeOutc (s : State) (o : Outcome) :
    (s.writeOutc o).readOutcome = some o := outcomeOfCode_outcomeCode o

/-! ### The table -/

/-- The table's code of the signed value of `CODE`: taking the code of an outcome goes through the
branches of the table (R91). -/
theorem outcomeCode_statusOutcome_toNat (code : Word) :
    (outcomeCode (statusOutcome code)).toNat =
      (if s32 code.toNat = 100 then 0 else if s32 code.toNat = 101 then 1
       else if s32 code.toNat = 1 then 2 else if s32 code.toNat = 2 then 3
       else if s32 code.toNat = 3 then 4 else if s32 code.toNat = 4 then 5
       else if s32 code.toNat = 5 then 6 else if s32 code.toNat = 6 then 7 else 8) := by
  simp only [statusOutcome, toInt_eq_s32, apply_ite outcomeCode, apply_ite BitVec.toNat]
  rfl

/-- Settles O18: `OUTC` holds the table's code, and no other field is written (R91). -/
theorem interpretStatusFollowsTable : Obligations.InterpretStatusFollowsTable := by
  unfold Obligations.InterpretStatusFollowsTable
  exact fun code s => ⟨rfl, _, exec_interpretStatus code s, outcomeCode_statusOutcome_toNat code,
    rfl, rfl, rfl, rfl, rfl, rfl⟩

/-! ### The codes the table names -/

/-- The status codes the table names (R91, R92). `statusOutcome_eq_unknown_iff` ties them to the table. -/
def namedStatusCodes : List Nat := [100, 101, 1, 2, 3, 4, 5, 6]

/-- The outcome is Unknown exactly for a signed value that the table does not name (R91). -/
theorem statusOutcome_eq_unknown_iff (code : Word) :
    statusOutcome code = .unknown ↔ ∀ n ∈ namedStatusCodes, code.toInt ≠ n := by
  simp [statusOutcome, namedStatusCodes, ite_eq_iff]

/-- A pattern has a small signed value exactly when it is the pattern of that number: all 32 bits count
(R92). -/
theorem toInt_eq_natCast_iff {code : Word} {n : Nat} (hn : n < 2147483648) :
    code.toInt = n ↔ BitVec.ofNat 32 n = code := by
  have hvalue : (BitVec.ofNat 32 n).toInt = n := by
    rw [BitVec.toInt_ofNat', Int.bmod_eq_of_le (by omega) (by omega)]
  rw [← BitVec.toInt_inj, hvalue, eq_comm]

/-- An outcome other than Unknown comes from the patterns of the named codes and from no other (R92). -/
theorem statusOutcome_ne_unknown_iff (code : Word) :
    statusOutcome code ≠ .unknown ↔ code ∈ namedStatusCodes.map (BitVec.ofNat 32) := by
  have hsmall : ∀ n ∈ namedStatusCodes, n < 2147483648 := by decide
  rw [ne_eq, statusOutcome_eq_unknown_iff, List.mem_map]
  push Not
  exact exists_congr fun n => and_congr_right fun hn => toInt_eq_natCast_iff (hsmall n hn)

/-- Settles O19: code 8 is Unknown's alone, and the table names eight patterns (R92). -/
theorem exactlyEightCodesAreNamed : Obligations.ExactlyEightCodesAreNamed := by
  unfold Obligations.ExactlyEightCodesAreNamed
  refine ⟨by decide, fun code s => ⟨_, exec_interpretStatus code s, ?_⟩⟩
  have hunknown : outcomeCode (statusOutcome code) = 8#4 ↔ statusOutcome code = .unknown :=
    outcomeCode_inj (p := .unknown)
  exact hunknown.not.trans (statusOutcome_ne_unknown_iff code)

/-! ### The status byte of a response -/

/-- Settles O21: both unpacks leave byte 2 in `STAT`, whose zero-extension has the byte's value; a byte
the table does not name falls under `statusOutcome_eq_unknown_iff` (R80, R94). -/
theorem responseStatusToOutcome : Obligations.ResponseStatusToOutcome := by
  unfold Obligations.ResponseStatusToOutcome
  intro f s
  refine ⟨_, _, _, _, exec_unpackS f s, exec_interpretStatus _ _, exec_unpackSV f s,
    exec_interpretStatus _ _, rfl, ?_⟩
  rw [State.readOutcome_writeOutc, State.writeStat_stat, Option.some_inj]
  have hcode : (zext32 f.f2).toInt = f.f2.toNat := zext32_toInt f.f2
  split
  case h_9 => -- a byte the table does not name
    rw [statusOutcome_eq_unknown_iff, hcode]
    simp_all [namedStatusCodes]
  all_goals simp [statusOutcome, *]

end Sys2Proof.Machine
end

section
/-! SUPPORT. Proofs of the statements of spec/70_reset_and_hazards.md: the idle step and the reset as a
step of its own (R115, R116, R118), the first request after reset (R117), the host that uses only `OP` 0 to
5 (R118), and two hazards, the zero sentinel and the crossed operands (R122, R124). -/

namespace Sys2Proof.Machine

/-! ### A lawful host -/

/-- A host is lawful when its next move, if it makes one, and its later moves are (R118). -/
theorem lawfulHost_iff (s : State) :
    LawfulHost s ↔ s.host.head?.all lawfulMove = true ∧ s.host.tail.all lawfulMove = true := by
  rcases hh : s.host with _ | ⟨m, ms⟩ <;> simp [LawfulHost, hh]

/-- Settles O36: a step on a lawful move, or on none, answers next and leaves the later moves to the host
(`step_read`; R3, R100, R118). -/
theorem lawfulHostIsKeptByEveryStep : Obligations.LawfulHostIsKeptByEveryStep := by
  unfold Obligations.LawfulHostIsKeptByEveryStep
  intro s hlaw
  obtain ⟨hnext, hlater⟩ := (lawfulHost_iff s).mp hlaw
  obtain ⟨t, hs, hhost, -⟩ := step_read hnext
  exact ⟨t, hs, by rwa [LawfulHost, hhost]⟩

/-- Settles O37: at reset the host has presented nothing (R115). -/
theorem lawfulHostHoldsAtReset : Obligations.LawfulHostHoldsAtReset := by
  unfold Obligations.LawfulHostHoldsAtReset
  have hhost : State.reset.host = [] := rfl
  exact ⟨by rw [LawfulHost, hhost, List.all_nil], hhost⟩

/-! ### The idle step and the reset -/

/-- Settles O32: `fetch` finds nothing at the port (R118). -/
theorem idleStepChangesNothing : Obligations.IdleStepChangesNothing := by
  unfold Obligations.IdleStepChangesNothing
  intro s hhost
  simp only [step, fetch_nil hhost]

/-- A step on a reset takes that move and the reset transition (R116). -/
theorem step_reset {s : State} {ms : List HostMove} (h : s.host = .reset :: ms) :
    step s = .next (s.setHost ms).takeReset := by
  simp only [step, fetch_reset h]

/-- Settles O33: the reset transition draws anew for every register and leaves the later moves (R115,
R116). -/
theorem resetIsAStepOfItsOwn : Obligations.ResetIsAStepOfItsOwn := by
  unfold Obligations.ResetIsAStepOfItsOwn
  exact fun s ms hhost => ⟨_, step_reset hhost, rfl, rfl, rfl, rfl, rfl, rfl, rfl⟩

/-- Settles O34: the second step runs the operation in the reset state, and what an operation writes does
not depend on the state it runs in (`exec_read_eq_of_writes`; R117). -/
theorem firstRequestAfterResetIsFull : Obligations.FirstRequestAfterResetIsFull := by
  unfold Obligations.FirstRequestAfterResetIsFull
  intro i s u
  obtain ⟨t, ht⟩ := exec_completes i (s.takeReset.setHost [])
  obtain ⟨v, hv⟩ := exec_completes i u
  have hreset : step (s.setHost [.reset, .request (encode i)]) =
      .next (s.takeReset.setHost [.request (encode i)]) :=
    step_reset (State.setHost_host s _)
  have hrequest : step (s.takeReset.setHost [.request (encode i)]) = .next t :=
    (stepRunsPresentedOperation _ _ [] i rfl (decode_encode i)).trans ht
  have hrun : runSteps 2 (s.setHost [.reset, .request (encode i)]) = .next t :=
    (runSteps_succ_of_next hreset).trans (runSteps_succ_of_next hrequest)
  exact ⟨t, v, hrun, hv, fun r => exec_read_eq_of_writes ht hv⟩

/-! ### Hazards -/

/-- Settles O16: a wrong `LEN` decodes to 0, as do four zero bytes (R76, R122). -/
theorem sentinelEqualsTrueZero : Obligations.SentinelEqualsTrueZero := by
  unfold Obligations.SentinelEqualsTrueZero
  intro len d s hlen
  have htrue : decodeLanes 4#4 ⟨0#8, 0#8, 0#8, 0#8⟩ = 0#32 := by decide
  have hsame := (decodeLanes_of_ne_four hlen d).trans htrue.symm
  exact ⟨_, exec_decodeValue len d s, by rw [hsame, exec_decodeValue]⟩

/-- Crossing address and command id exchanges two bytes of the checksum's span, so the checksum is the
same (R66). -/
theorem packFrame_swap_f8 (cmd addr typ bank : Byte) (value : Word) :
    (packFrame addr cmd typ bank value).f8 = (packFrame cmd addr typ bank value).f8 := by
  rw [packFrame_f8, packFrame_f8]
  exact checksumIgnoresByteOrder.1 _ _ (.swap ..)

/-- Settles O7: each first operand lands in byte 1 and each second in byte 0, and the checksum covers the
bytes as they lie (R49, R124). -/
theorem swappedOperandsKeepValidChecksum : Obligations.SwappedOperandsKeepValidChecksum := by
  unfold Obligations.SwappedOperandsKeepValidChecksum
  exact fun cmd addr typ bank value s => ⟨_, _, exec_encode cmd addr typ bank value s,
    exec_encode addr cmd typ bank value s, rfl, rfl, rfl, rfl, packFrame_f8 addr cmd typ bank value,
    packFrame_swap_f8 cmd addr typ bank value⟩

end Sys2Proof.Machine
end

section
/-! SUPPORT. Proofs that the decoder and the encoder are inverse (spec/30_encoding.md R43, R44, R46), up
to the lines above the operands of an operation, which the encoder drives to 0 (log 7, 8). -/

namespace Sys2Proof.Machine

/-- Settles O27: `decode_encode`, by cases on the operation. -/
theorem decodeOfEncodeIsIdentity : Obligations.DecodeOfEncodeIsIdentity := by
  unfold Obligations.DecodeOfEncodeIsIdentity
  exact decode_encode

/-! ### What the encoder makes of operands taken from the lines -/

/-- Eight bytes taken from the lines, side by side, are lines 63 to 0 (R46). -/
theorem view64_ofLanes (v : BitVec 72) : (Bytes8.ofLanes v).view64 = v.extractLsb' 0 64 := by
  simp (disch := omega) only [Bytes8.view64, Bytes8.ofLanes,
    BitVec.extractLsb'_append_extractLsb'_eq_extractLsb']

/-- Four bytes taken from the lines, side by side, are lines 31 to 0 (R46). -/
theorem view32_ofLanes (v : BitVec 72) : (Bytes4.ofLanes v).view32 = v.extractLsb' 0 32 := by
  simp (disch := omega) only [Bytes4.view32, Bytes4.ofLanes,
    BitVec.extractLsb'_append_extractLsb'_eq_extractLsb']

/-- What a request decodes to is presented by the same `OP` and the lines of its operands, those above
at 0: the operands lie side by side in their lines (R44, R46). -/
theorem encode_of_decode_eq_ok {r : Request} {i : Instr} (h : decode r = .ok i) :
    encode i = ⟨r.op, (r.lanes.extractLsb' 0 (operandBits i)).setWidth 72⟩ := by
  obtain ⟨op, lanes⟩ := r
  unfold decode at h
  split at h <;> cases h
  case h_1 hop =>
    obtain rfl : op = 0#3 := BitVec.eq_of_toNat_eq hop
    simp (disch := omega) only [encode, operandBits,
      BitVec.extractLsb'_append_extractLsb'_eq_extractLsb']
  case h_2 hop =>
    obtain rfl : op = 1#3 := BitVec.eq_of_toNat_eq hop
    simp only [encode, operandBits, view64_ofLanes]
  case h_3 hop =>
    obtain rfl : op = 2#3 := BitVec.eq_of_toNat_eq hop
    simp (disch := omega) only [encode, operandBits, view32_ofLanes,
      BitVec.extractLsb'_append_extractLsb'_eq_extractLsb']
  case h_4 hop =>
    obtain rfl : op = 3#3 := BitVec.eq_of_toNat_eq hop
    simp [encode, operandBits, view72_ofView72]
  case h_5 hop =>
    obtain rfl : op = 4#3 := BitVec.eq_of_toNat_eq hop
    simp [encode, operandBits, view72_ofView72]
  case h_6 hop =>
    obtain rfl : op = 5#3 := BitVec.eq_of_toNat_eq hop
    simp only [encode, operandBits]

/-- The low lines of a request, as a number, with every line above them at 0. -/
theorem toNat_setWidth_extractLsb'_zero (v : BitVec 72) (n : Nat) :
    ((v.extractLsb' 0 n).setWidth 72).toNat = v.toNat % 2 ^ n := by
  rw [BitVec.toNat_setWidth, BitVec.extractLsb'_toNat, Nat.shiftRight_zero]
  exact Nat.mod_eq_of_lt ((Nat.mod_le _ _).trans_lt v.isLt)

/-- Settles O28: both parts are read off the request of `encode_of_decode_eq_ok`. -/
theorem encodeOfDecodeKeepsUsedLines : Obligations.EncodeOfDecodeKeepsUsedLines := by
  unfold Obligations.EncodeOfDecodeKeepsUsedLines
  intro r i h
  rw [encode_of_decode_eq_ok h]
  exact ⟨rfl, toNat_setWidth_extractLsb'_zero r.lanes (operandBits i)⟩

end Sys2Proof.Machine
end
